-- ==== Sys2Proof/Word.lean ====
section
/-! DEFINITION. The value types of the LPF2 message framer (spec/00_scope.md R6, "Values"): a byte is
0..255, a word is 0..2^32-1, Bytes is a finite sequence of bytes whose first element is the first byte
on the wire. Lengths and length-class exponents are unbounded naturals ("no such computation wraps"),
so they are `Nat`. -/

namespace Sys2Proof

/-- A byte (R6): 8 bits, bit 0 the least significant. -/
abbrev Byte := BitVec 8

/-- A word (R6): 32 bits; every operand that carries a numeric value arrives as one. -/
abbrev Word := BitVec 32

/-- A finite sequence of bytes (R6); element 0 is the first handed to the sink. -/
abbrev Bytes := List Byte

end Sys2Proof
end

