-- ==== Sys2Proof/Config.lean ====
section
/-! DEFINITION. The constants the spec fixes (spec/00_scope.md R5, spec/10_state.md R26), as one record
whose fields carry the spec's parameter names, and the two bounds the spec leaves OPEN (`LMAX`, `NMAX`)
as a record that a caller supplies. The machine has no free value: no rule leaves a result open. -/

namespace Sys2Proof

/-- The read-only constant table of R5. Each field is the spec's parameter of that name. -/
structure Config where
  /-- `CB_TYPE`: literal header byte of the sensor-type message. -/
  cbType : Byte
  /-- `CB_SPEED`: literal header byte of the baud-rate message. -/
  cbSpeed : Byte
  /-- `CB_MODES`: literal header byte of the mode-table message. -/
  cbModes : Byte
  /-- `CB_VERSION`: literal header byte of the version message. -/
  cbVersion : Byte
  /-- `CB_INFO`: command base of the six info-class messages. -/
  cbInfo : Byte
  /-- `CB_FORMAT`: command base of the numeric-format message (90_conflicts.md C3). -/
  cbFormat : Byte
  /-- `CB_DATA`: command base of the data message. -/
  cbData : Byte
  /-- `SUB_NAME`. -/
  subName : Byte
  /-- `SUB_RAW`. -/
  subRaw : Byte
  /-- `SUB_PCT`. -/
  subPct : Byte
  /-- `SUB_SI`. -/
  subSi : Byte
  /-- `SUB_UNITS`. -/
  subUnits : Byte
  /-- `SUB_MAPPING`. -/
  subMapping : Byte
  /-- `SUB_FORMAT`. -/
  subFormat : Byte
  /-- `EXP_MAX`: largest length-class exponent. -/
  expMax : Nat
  /-- `IDX_MAX`: largest field index. -/
  idxMax : Nat
  /-- `MODES_MAX`: largest mode count of a device. -/
  modesMax : Nat
  /-- `CHK_SEED`: value XORed into the checksum. -/
  chkSeed : Byte
  deriving DecidableEq, Repr

/-- The normative values of R5's table. -/
def config : Config where
  cbType := 0x40
  cbSpeed := 0x52
  cbModes := 0x49
  cbVersion := 0x5F
  cbInfo := 0x80
  cbFormat := 0x51
  cbData := 0xC0
  subName := 0x00
  subRaw := 0x01
  subPct := 0x02
  subSi := 0x03
  subUnits := 0x04
  subMapping := 0x05
  subFormat := 0x80
  expMax := 4
  idxMax := 7
  modesMax := 8
  chkSeed := 0xFF

/-- The two parameters R5 leaves OPEN (92_eei_decisions.md D6, D7): the longest byte-string operand
and the largest array operand the command port can carry. A statement takes them as arguments. -/
structure PortBounds where
  /-- `LMAX`. -/
  lmax : Nat
  /-- `NMAX`. -/
  nmax : Nat
  deriving DecidableEq, Repr

/-- R5: `LMAX` must be at least 18 and `NMAX` at least 16. -/
abbrev PortBounds.legal (b : PortBounds) : Prop := 18 ≤ b.lmax ∧ 16 ≤ b.nmax

/-- The smallest port R5 allows. -/
def PortBounds.smallest : PortBounds := ⟨18, 16⟩

end Sys2Proof
end

