-- ==== Sys2Proof/Syntax.lean ====
section
/-! DEFINITION. The syntax of commands: the closed set of numeric types, the 22 operations of the command
port (spec/30_encoding.md R74, spec/opcode_table.json) with their operands at the widths of R72, the
command-port record itself, and the operands of the two pseudo-operations (spec/47_sequences.md R240,
R241). -/

namespace Sys2Proof

/-- The closed set of numeric types (R7). -/
inductive NumericType where
  | int8
  | uint8
  | int16
  | uint16
  | int32
  | uint32
  | float32
  deriving DecidableEq, Repr

/-- A decoded type operand `t`: a member of the closed set, or `none` for selector 7, "not a type"
(R73). -/
abbrev TypeSel := Option NumericType

/-- The operations of the framer, one constructor per row of the operation table (R74), with the
operands the row lists, in its order. -/
inductive Instr where
  /-- `WIDTHOF t` (R101). -/
  | widthof (t : TypeSel)
  /-- `NENC t, v` (R110). -/
  | nenc (t : TypeSel) (v : Word)
  /-- `CHKAPP bytes` (R121). -/
  | chkapp (bytes : Bytes)
  /-- `HDRPACK cb, exp, idx` (R151). -/
  | hdrpack (cb : Byte) (exp : Byte) (idx : Byte)
  /-- `LCSCALAR t` (R132). -/
  | lcscalar (t : TypeSel)
  /-- `LCARRAY t, n` (R135). -/
  | lcarray (t : TypeSel) (n : BitVec 16)
  /-- `LCTEXT n` (R138). -/
  | lctext (n : BitVec 16)
  /-- `LCVALID exp, n` (R140). -/
  | lcvalid (exp : Byte) (n : BitVec 16)
  /-- `FRAME cb, exp, idx, sub, bytes` (R152). -/
  | frame (cb : Byte) (exp : Byte) (idx : Byte) (sub : Option Byte) (bytes : Bytes)
  /-- `TYPE sensorType` (R170). -/
  | type (sensorType : Byte)
  /-- `SPEED rate` (R171). -/
  | speed (rate : Word)
  /-- `MODES modeCount, viewFlags` (R172). -/
  | modes (modeCount : Byte) (viewFlags : Byte)
  /-- `VERSION hw, sw` (R173). -/
  | version (hw : Word) (sw : Word)
  /-- `NAME idx, bytes` (R190). -/
  | name (idx : Byte) (bytes : Bytes)
  /-- `RAW idx, min, max` (R191). -/
  | raw (idx : Byte) (min : Word) (max : Word)
  /-- `PCT idx, min, max` (R192). -/
  | pct (idx : Byte) (min : Word) (max : Word)
  /-- `SI idx, min, max` (R193). -/
  | si (idx : Byte) (min : Word) (max : Word)
  /-- `UNITS idx, bytes` (R194). -/
  | units (idx : Byte) (bytes : Bytes)
  /-- `MAPPING idx, mapIn, mapOut` (R195). -/
  | mapping (idx : Byte) (mapIn : Byte) (mapOut : Byte)
  /-- `FORMAT idx, sampleCount, typeCode, figures, decimals` (R196). -/
  | format (idx : Byte) (sampleCount : Word) (typeCode : Word) (figures : Word) (decimals : Word)
  /-- `DATAS t, idx, v` (R220). -/
  | datas (t : TypeSel) (idx : Byte) (v : Word)
  /-- `DATAA t, idx, vs` (R221). -/
  | dataa (t : TypeSel) (idx : Byte) (vs : List Word)
  deriving DecidableEq, Repr

/-- One record of the command port (R72): the operation selector and every operand field. A field
that R72 does not list for an operation is ignored by it; a record left at these defaults has all its
operand fields zero, empty or absent. -/
structure Command where
  /-- The 5-bit operation ordinal (R74). -/
  opsel : BitVec 5
  /-- The 3-bit NumericType selector (R73). -/
  t : BitVec 3 := 0
  /-- Command base. -/
  cb : Byte := 0
  /-- Length-class exponent. -/
  exp : Byte := 0
  /-- Field index; 8 bits wide "so that `FieldIndexOutOfRange` can occur". -/
  idx : Byte := 0
  /-- Sub-id of a format M2 message, absent or one byte. -/
  sub : Option Byte := none
  /-- Byte-string operand. -/
  bytes : Bytes := []
  /-- Value to encode. -/
  v : Word := 0
  /-- Array elements in order. -/
  vs : List Word := []
  /-- A count of elements or of bytes. -/
  n : BitVec 16 := 0
  /-- Sensor type code. -/
  sensorType : Byte := 0
  /-- Proposed baud rate. -/
  rate : Word := 0
  /-- Mode count. -/
  modeCount : Byte := 0
  /-- Bit `i` is the "has view" flag of mode `i`. -/
  viewFlags : Byte := 0
  /-- Hardware version. -/
  hw : Word := 0
  /-- Software version. -/
  sw : Word := 0
  /-- Range minimum, a binary32 pattern. -/
  min : Word := 0
  /-- Range maximum, a binary32 pattern. -/
  max : Word := 0
  /-- Input-side type tag. -/
  mapIn : Byte := 0
  /-- Output-side type tag. -/
  mapOut : Byte := 0
  /-- Numeric-format sample count. -/
  sampleCount : Word := 0
  /-- Numeric-format type code. -/
  typeCode : Word := 0
  /-- Numeric-format display figures. -/
  figures : Word := 0
  /-- Numeric-format decimal places. -/
  decimals : Word := 0
  deriving DecidableEq, Repr

/-- The attributes of one mode, as `SETUPMODE` (R240) and `HANDSHAKE` (R241) take them. -/
structure ModeDesc where
  name : Bytes
  rawMin : Word
  rawMax : Word
  pctMin : Word
  pctMax : Word
  siMin : Word
  siMax : Word
  unit : Bytes
  mapIn : Byte
  mapOut : Byte
  sampleCount : Word
  typeCode : Word
  figures : Word
  decimals : Word
  /-- Used only by `MODES` (R240, R241). -/
  hasView : Bool
  deriving DecidableEq, Repr

/-- The operands of `HANDSHAKE` (R241): the device identity and its ordered list of modes, whose
position is the mode's index. -/
structure DeviceDesc where
  sensorType : Byte
  rate : Word
  hw : Word
  sw : Word
  modes : List ModeDesc
  deriving DecidableEq, Repr

end Sys2Proof
end

