-- ==== Sys2Proof/WellFormed.lean ====
section
/-! DEFINITION. Which operations the command port can carry. Every operand width of spec/30_encoding.md R72
is a fact of its Lean type; the only bounds that are not are `LMAX` on a byte string and `NMAX` on an array
(spec/00_scope.md R5), which the spec leaves OPEN and which are therefore an argument here. The machine
itself takes lists of any length (93_implementation_defined.md U13 allows that). -/

namespace Sys2Proof

/-- `i` can be presented on a command port with the bounds `b` (R72: `bytes` at most `LMAX` long, `vs`
at most `NMAX` long). -/
def Instr.wellFormed (b : PortBounds) : Instr → Bool
  | .widthof _ => true
  | .nenc _ _ => true
  | .chkapp bytes => decide (bytes.length ≤ b.lmax)
  | .hdrpack _ _ _ => true
  | .lcscalar _ => true
  | .lcarray _ _ => true
  | .lctext _ => true
  | .lcvalid _ _ => true
  | .frame _ _ _ _ bytes => decide (bytes.length ≤ b.lmax)
  | .type _ => true
  | .speed _ => true
  | .modes _ _ => true
  | .version _ _ => true
  | .name _ bytes => decide (bytes.length ≤ b.lmax)
  | .raw _ _ _ => true
  | .pct _ _ _ => true
  | .si _ _ _ => true
  | .units _ bytes => decide (bytes.length ≤ b.lmax)
  | .mapping _ _ _ => true
  | .format _ _ _ _ _ => true
  | .datas _ _ _ => true
  | .dataa _ _ vs => decide (vs.length ≤ b.nmax)

end Sys2Proof
end

