-- ==== Sys2Proof/Decode.lean ====
section
/-! DEFINITION. From a command-port record to an operation and back (spec/30_encoding.md R72 to R75). The
spec fixes the fields of the record and the ordinal of each operation; it gives no byte layout for the
operand fields, so the record is the encoding. Decoding is total: the reserved ordinals 22..31 are rejected
by name. -/

namespace Sys2Proof

/-- Why a command-port record is no operation. -/
inductive DecodeError where
  /-- `opsel` is one of the reserved values 22..31 (R75). -/
  | reservedSelector (opsel : BitVec 5)
  deriving DecidableEq, Repr

/-- The type selector codes of R73; 7 is not a type. -/
def typeOfSelector (t : BitVec 3) : TypeSel :=
  match t.toNat with
  | 0 => some .int8
  | 1 => some .uint8
  | 2 => some .int16
  | 3 => some .uint16
  | 4 => some .int32
  | 5 => some .uint32
  | 6 => some .float32
  | _ => none

/-- The decoder: the operation that a command-port record selects (R74) with its operand fields (R72). -/
def decode (c : Command) : Except DecodeError Instr :=
  match c.opsel.toNat with
  | 0 => .ok (.widthof (typeOfSelector c.t))
  | 1 => .ok (.nenc (typeOfSelector c.t) c.v)
  | 2 => .ok (.chkapp c.bytes)
  | 3 => .ok (.hdrpack c.cb c.exp c.idx)
  | 4 => .ok (.lcscalar (typeOfSelector c.t))
  | 5 => .ok (.lcarray (typeOfSelector c.t) c.n)
  | 6 => .ok (.lctext c.n)
  | 7 => .ok (.lcvalid c.exp c.n)
  | 8 => .ok (.frame c.cb c.exp c.idx c.sub c.bytes)
  | 9 => .ok (.type c.sensorType)
  | 10 => .ok (.speed c.rate)
  | 11 => .ok (.modes c.modeCount c.viewFlags)
  | 12 => .ok (.version c.hw c.sw)
  | 13 => .ok (.name c.idx c.bytes)
  | 14 => .ok (.raw c.idx c.min c.max)
  | 15 => .ok (.pct c.idx c.min c.max)
  | 16 => .ok (.si c.idx c.min c.max)
  | 17 => .ok (.units c.idx c.bytes)
  | 18 => .ok (.mapping c.idx c.mapIn c.mapOut)
  | 19 => .ok (.format c.idx c.sampleCount c.typeCode c.figures c.decimals)
  | 20 => .ok (.datas (typeOfSelector c.t) c.idx c.v)
  | 21 => .ok (.dataa (typeOfSelector c.t) c.idx c.vs)
  | _ => .error (.reservedSelector c.opsel)

/-- The selector code of a type operand (R73). -/
def selectorOfType : TypeSel → BitVec 3
  | some .int8 => 0
  | some .uint8 => 1
  | some .int16 => 2
  | some .uint16 => 3
  | some .int32 => 4
  | some .uint32 => 5
  | some .float32 => 6
  | none => 7

/-- The encoder: the command-port record of an operation, every field the operation ignores left zero,
empty or absent. -/
def encode : Instr → Command
  | .widthof t => { opsel := 0, t := selectorOfType t }
  | .nenc t v => { opsel := 1, t := selectorOfType t, v := v }
  | .chkapp bytes => { opsel := 2, bytes := bytes }
  | .hdrpack cb exp idx => { opsel := 3, cb := cb, exp := exp, idx := idx }
  | .lcscalar t => { opsel := 4, t := selectorOfType t }
  | .lcarray t n => { opsel := 5, t := selectorOfType t, n := n }
  | .lctext n => { opsel := 6, n := n }
  | .lcvalid exp n => { opsel := 7, exp := exp, n := n }
  | .frame cb exp idx sub bytes =>
      { opsel := 8, cb := cb, exp := exp, idx := idx, sub := sub, bytes := bytes }
  | .type sensorType => { opsel := 9, sensorType := sensorType }
  | .speed rate => { opsel := 10, rate := rate }
  | .modes modeCount viewFlags => { opsel := 11, modeCount := modeCount, viewFlags := viewFlags }
  | .version hw sw => { opsel := 12, hw := hw, sw := sw }
  | .name idx bytes => { opsel := 13, idx := idx, bytes := bytes }
  | .raw idx min max => { opsel := 14, idx := idx, min := min, max := max }
  | .pct idx min max => { opsel := 15, idx := idx, min := min, max := max }
  | .si idx min max => { opsel := 16, idx := idx, min := min, max := max }
  | .units idx bytes => { opsel := 17, idx := idx, bytes := bytes }
  | .mapping idx mapIn mapOut => { opsel := 18, idx := idx, mapIn := mapIn, mapOut := mapOut }
  | .format idx sampleCount typeCode figures decimals =>
      { opsel := 19, idx := idx, sampleCount := sampleCount, typeCode := typeCode,
        figures := figures, decimals := decimals }
  | .datas t idx v => { opsel := 20, t := selectorOfType t, idx := idx, v := v }
  | .dataa t idx vs => { opsel := 21, t := selectorOfType t, idx := idx, vs := vs }

/-- The command-port record whose bits are `w` as the operation table numbers them: bits 4..0 are
`opsel` and the table gives the operand fields no bits, so they are zero, empty or absent
(notes/assumptions/6.md). Only the `nbits` bits of the row count. -/
def commandOfTableWord (nbits w : Nat) : Command :=
  { opsel := BitVec.ofNat 5 (w % 2 ^ nbits) }

/-- The operation the decoder reads from a table word. -/
def decodeTableWord (nbits w : Nat) : Option Instr :=
  match decode (commandOfTableWord nbits w) with
  | .ok i => some i
  | .error _ => none

end Sys2Proof
end

