-- ==== Sys2Proof/Machine/State.lean ====
section
/-! DEFINITION. The state of the framer as plain data. The spec gives it exactly two items, `sink` and
`fault` (spec/10_state.md R20); around them stand the two ports of spec/30_encoding.md R72 that a step
needs: the response port, which carries the record of the operation just done, and the inputs the host has
yet to present. -/

namespace Sys2Proof.Machine

/-- The four errors (spec/60_exceptions.md R250). An operation that raises one is a NEXT state, not a
stop of the machine (R255 to R262). -/
inductive FramerError where
  /-- Code 1, R251: an operation that takes a type selector received selector 7. -/
  | invalidType
  /-- Code 2, R252: the field index is greater than 7. -/
  | fieldIndexOutOfRange
  /-- Code 3, R253: the mode count is greater than 8. -/
  | tooManyModes
  /-- Code 4, R254: the message would break the length-class rule. -/
  | lengthClassInvalid
  deriving DecidableEq, Repr

/-- What a query operation answers on the response port (R72: "a number or a Bytes"), in the shape
its own rule gives. -/
inductive Result where
  /-- A number: `WIDTHOF`, `LCSCALAR`, `LCTEXT`, `LCVALID`. -/
  | number (n : Nat)
  /-- One byte: `HDRPACK` (R151). -/
  | byte (b : Byte)
  /-- A pair, exponent and kept element count: `LCARRAY` (R135). -/
  | pair (exp : Nat) (count : Nat)
  /-- A Bytes: `NENC` (R110), `CHKAPP` (R121). -/
  | bytes (b : Bytes)
  deriving DecidableEq, Repr

/-- One record of the response port (R72): the 3-bit status, and the result, present only for a query
operation that succeeded. -/
structure Response where
  status : BitVec 3
  result : Option Result
  deriving DecidableEq, Repr

/-- What the host can do to the framer between operations: present a command (R72) or reset it
(R280, R281). -/
inductive HostInput where
  | command (c : Command)
  | reset
  deriving DecidableEq, Repr

/-- The whole state. -/
structure State where
  /-- R21: the log of messages handed to the serial sink since reset, oldest first; one element is
  one write. No operation reads it. -/
  sink : List Bytes
  /-- R22, R26: the sticky 3-bit error register; the host reads it on the status port. -/
  fault : BitVec 3
  /-- R72: the response port: the record of the operation done last, `none` before the first. No
  operation reads it (notes/assumptions/2.md). -/
  response : Option Response
  /-- R72, R281: what the host will present, first to last; the step takes the head
  (notes/assumptions/1.md). -/
  inputs : List HostInput
  deriving DecidableEq, Repr

/-- The machine has no fault that stops it: every error of the spec is reported and recorded and the
framer accepts the next operation (R255 to R262), and its sink never fails (R55). The type has no
constructor, so that no step can answer `.fault`: safe, since nothing is hidden behind a stop. -/
inductive Fault where
  deriving DecidableEq, Repr

/-- Why a step is refused. -/
inductive Refusal where
  /-- Raised by an arm of `exec` whose instruction has no meaning yet. No arm raises it. Safe. -/
  | notModelled (mnemonic : String)
  /-- Raised by `step` for a command whose `opsel` is one of the reserved values 22..31: "the machine
  refuses such a command (no step)" (R75, 93_implementation_defined.md U1). Safe: nothing is proved of a
  run that reaches it. -/
  | reservedSelector (opsel : BitVec 5)
  deriving DecidableEq, Repr

/-- What a step or a meaning answers. -/
abbrev StepOutcome := Host.Outcome State Fault Refusal

/-- R28, R280: the sink is the empty sequence and `fault` is 0. The response port holds no record and
the host has presented nothing (notes/assumptions/1.md, notes/assumptions/2.md). -/
def State.reset : State :=
  { sink := [], fault := 0, response := none, inputs := [] }

end Sys2Proof.Machine
end

