-- ==== Sys2Proof/Machine/Flags.lean ====
section
/-! DEFINITION. The framer has no flags (spec/10_state.md R25). Its only status is the `fault` register and
the status field of the response port; this file computes both (spec/60_exceptions.md R250, R256, R257). -/

namespace Sys2Proof.Machine

/-- The status of a successful operation (R250, code 0; R256). -/
def statusOk : BitVec 3 := 0

/-- The error codes of R250. -/
def errorCode : FramerError → BitVec 3
  | .invalidType => 1
  | .fieldIndexOutOfRange => 2
  | .tooManyModes => 3
  | .lengthClassInvalid => 4

/-- R257: `fault` keeps the code of the first error raised since reset. -/
def recordError (fault code : BitVec 3) : BitVec 3 :=
  if fault = 0 then code else fault

end Sys2Proof.Machine
end

