-- ==== Sys2Proof/Machine/Operands.lean ====
section
/-! DEFINITION. How operands become wire bytes and length classes: byte order, the integer logarithms, the
width table and the codec (spec/40_numeric_codec.md), the length-class unit (spec/42_length_class.md) and
operand assembly (spec/30_encoding.md R76). All are pure; a function that can raise answers `Except`. -/

namespace Sys2Proof.Machine

/-- `LE_n(v)` (R6): the `n` low-order bytes of `v`, least significant first. -/
def leBytes (n : Nat) (v : Word) : Bytes :=
  (List.range n).map fun k => v.extractLsb' (8 * k) 8

/-- `BE_4(v)` (R6): the four bytes of `v`, most significant first. -/
def beBytes4 (v : Word) : Bytes :=
  [v.extractLsb' 24 8, v.extractLsb' 16 8, v.extractLsb' 8 8, v.extractLsb' 0 8]

/-- `Flog2(n)` (R6) for `n ≥ 1`: the greatest `k` with `2^k ≤ n`. Every caller has `n ≥ 1`. -/
def flog2 (n : Nat) : Nat := Nat.log2 n

/-- `Clog2(n)` (R6): the least `k` with `2^k ≥ n`. -/
def clog2 (n : Nat) : Nat :=
  if n ≤ 1 then 0 else Nat.log2 (n - 1) + 1

/-- `Popcount(v)` (R6) of a byte. -/
def popcount (v : Byte) : Nat :=
  (List.range 8).countP fun k => v.getLsbD k

/-- `Zeros(k)` (R6). -/
def zeros (k : Nat) : Bytes := List.replicate k 0

/-- `v & 0xFF` (R76 f). -/
def lowByte (v : Word) : Byte := v.setWidth 8

/-- The width table of R100. -/
def widthTable : NumericType → Nat
  | .int8 => 1
  | .uint8 => 1
  | .int16 => 2
  | .uint16 => 2
  | .int32 => 4
  | .uint32 => 4
  | .float32 => 4

/-- `Width(t)` (R100); raises `InvalidType` on selector 7 (R113). -/
def width : TypeSel → Except FramerError Nat
  | some ty => .ok (widthTable ty)
  | none => .error .invalidType

/-- `Enc(t, v)` (R102): the low `Width(t)` bytes of the word, least significant first. -/
def enc (t : TypeSel) (v : Word) : Except FramerError Bytes :=
  match width t with
  | .error e => .error e
  | .ok w => .ok (leBytes w v)

/-- `LcScalar(t) = log2(Width(t))` (R131). -/
def lcScalar (t : TypeSel) : Except FramerError Nat :=
  match width t with
  | .error e => .error e
  | .ok w => .ok (flog2 w)

/-- `LcArray` (R133) for element width `w` and count `n ≥ 1`: rounded down and capped. -/
def lcArray (w n : Nat) : Nat := min (flog2 (w * n)) config.expMax

/-- `Keep` (R134) for element width `w` and count `n ≥ 1`: how many leading elements are emitted. -/
def keep (w n : Nat) : Nat :=
  if w * n > 2 ^ lcArray w n then 2 ^ lcArray w n / w else n

/-- `LcText(n)` (R136): rounded up. -/
def lcText (n : Nat) : Nat := clog2 n

/-- `Pad(s)` (R137): zero bytes up to the next power of two. -/
def pad (s : Bytes) : Bytes := s ++ zeros (2 ^ lcText s.length - s.length)

/-- `LcValid(exp, n)` (R139). -/
def lcValid (exp n : Nat) : Bool := decide (exp ≤ config.expMax) && decide (n = 2 ^ exp)

/-- The number of views among the first `modeCount` modes (R172):
`Popcount(viewFlags & (2^modeCount - 1))`. -/
def viewCount (modeCount viewFlags : Byte) : Nat :=
  popcount (viewFlags &&& BitVec.ofNat 8 (2 ^ modeCount.toNat - 1))

/-- `(n - 1) mod 256` (R76 g, R172). -/
def countMinusOne (n : Nat) : Byte := BitVec.ofNat 8 n - 1

end Sys2Proof.Machine
end

