-- ==== Sys2Proof/Machine/Ops.lean ====
section
/-! DEFINITION. The shared operations: the checksum (spec/41_checksum.md), the header bit-pack and the
framer (spec/43_framer.md), the one store primitive `SinkWrite` (spec/20_memory.md R41), `Respond`
(spec/00_scope.md R6), taking an error (spec/60_exceptions.md R255 to R257), reset, and the two shapes every
operation has (spec/00_scope.md R4): a query and a message. -/

namespace Sys2Proof.Machine

/-- `XorAll(s)` (R6). -/
def xorAll (s : Bytes) : Byte := s.foldr (· ^^^ ·) 0

/-- `Chk(b)` (R120): the bytes and then their complemented exclusive OR. -/
def chk (b : Bytes) : Bytes := b ++ [xorAll b ^^^ config.chkSeed]

/-- The header formula (R62): a bitwise OR, taken as 8 bits. -/
def headerByte (cb : Byte) (exp : Nat) (idx : Byte) : Byte :=
  cb ||| (BitVec.ofNat 8 exp <<< 3) ||| idx

/-- `Hdr(cb, exp, idx)` (R150): the field index is checked first, then the exponent (R258). -/
def hdr (cb : Byte) (exp : Nat) (idx : Byte) : Except FramerError Byte :=
  if idx.toNat > config.idxMax then .error .fieldIndexOutOfRange
  else if exp > config.expMax then .error .lengthClassInvalid
  else .ok (headerByte cb exp idx)

/-- `Frame(cb, exp, idx, sub, data)` (R152): both checks come before any byte exists. -/
def frame (cb : Byte) (exp : Nat) (idx : Byte) (sub : Option Byte) (data : Bytes) :
    Except FramerError Bytes :=
  if idx.toNat > config.idxMax then .error .fieldIndexOutOfRange
  else if lcValid exp data.length then .ok (chk ([headerByte cb exp idx] ++ sub.toList ++ data))
  else .error .lengthClassInvalid

/-- `SinkWrite(m)` (R41): `sink <- sink ++ [m]`. -/
def State.sinkWrite (m : Bytes) (s : State) : State :=
  { s with sink := s.sink ++ [m] }

/-- `Respond(v)` or `Respond()` (R6, R256): status OK, with the result of a query. -/
def State.respond (r : Option Result) (s : State) : State :=
  { s with response := some { status := statusOk, result := r } }

/-- Taking an error, the only "exception entry" the framer has (R255 to R257, R260): the status carries
the code, there is no result, `fault` records the code if it held none, and nothing else changes. There is
no handler and so no return from one (R260, R261). -/
def State.raise (e : FramerError) (s : State) : State :=
  { s with
    fault := recordError s.fault (errorCode e)
    response := some { status := errorCode e, result := none } }

/-- Reset (R280) with `rest` still to be presented by the host. -/
def State.resetWith (rest : List HostInput) : State :=
  { State.reset with inputs := rest }

/-- The level the host samples on the status port (R72, R22). -/
def State.statusPort (s : State) : BitVec 3 := s.fault

/-- The wire stream (R21): the concatenation of all writes in order. -/
def State.wire (s : State) : Bytes := s.sink.flatten

/-- The shape of a query operation (R4): respond with the result, or raise. -/
def query (r : Except FramerError Result) (s : State) : StepOutcome :=
  match r with
  | .ok v => .next (s.respond (some v))
  | .error e => .next (s.raise e)

/-- The shape of a message operation (R4, R41): write exactly one message and then respond without a
result, or raise and write nothing. -/
def emit (m : Except FramerError Bytes) (s : State) : StepOutcome :=
  match m with
  | .ok msg => .next ((s.sinkWrite msg).respond none)
  | .error e => .next (s.raise e)

end Sys2Proof.Machine
end

