-- ==== Sys2Proof/Machine/Checksum.lean ====
section
/-! DEFINITION. The meaning of `CHKAPP` (spec/41_checksum.md). -/

namespace Sys2Proof.Machine

/-- `CHKAPP` (R121): `Respond(Chk(bytes))`; it raises nothing. -/
def execChkapp (bytes : Bytes) (s : State) : StepOutcome :=
  query (.ok (.bytes (chk bytes))) s

end Sys2Proof.Machine
end

