-- ==== Sys2Proof/Machine/DataTelegram.lean ====
section
/-! DEFINITION. The meanings of `DATAS` and `DATAA` (spec/46_data_telegram.md). -/

namespace Sys2Proof.Machine

/-- `DATAS` (R220): the type is checked before the index. -/
def execDatas (t : TypeSel) (idx : Byte) (v : Word) (s : State) : StepOutcome :=
  match width t with
  | .error e => emit (.error e) s
  | .ok w => emit (frame config.cbData (flog2 w) idx none (leBytes w v)) s

/-- The data bytes of an array of element width `w` (R221, R224): the kept elements in input order. -/
def arrayData (w : Nat) (vs : List Word) : Bytes :=
  (vs.take (keep w vs.length)).flatMap (leBytes w)

/-- `DATAA` (R221): type, then index, then the empty array (R225); truncation is silent (R223). -/
def execDataa (t : TypeSel) (idx : Byte) (vs : List Word) (s : State) : StepOutcome :=
  match width t with
  | .error e => emit (.error e) s
  | .ok w =>
    if idx.toNat > config.idxMax then emit (.error .fieldIndexOutOfRange) s
    else if vs.length = 0 then emit (.error .lengthClassInvalid) s
    else emit (frame config.cbData (lcArray w vs.length) idx none (arrayData w vs)) s

end Sys2Proof.Machine
end

