-- ==== Sys2Proof/Machine/Framer.lean ====
section
/-! DEFINITION. The meanings of `HDRPACK` and `FRAME` (spec/43_framer.md). -/

namespace Sys2Proof.Machine

/-- `HDRPACK` (R151): the header byte alone. -/
def execHdrpack (cb exp idx : Byte) (s : State) : StepOutcome :=
  query ((hdr cb exp.toNat idx).map .byte) s

/-- `FRAME` (R152): `SinkWrite(Frame(cb, exp, idx, sub, bytes)); Respond()`. -/
def execFrame (cb exp idx : Byte) (sub : Option Byte) (bytes : Bytes) (s : State) : StepOutcome :=
  emit (frame cb exp.toNat idx sub bytes) s

end Sys2Proof.Machine
end

