-- ==== Sys2Proof/Machine/Handshake.lean ====
section
/-! DEFINITION. The meanings of `TYPE`, `SPEED`, `MODES` and `VERSION` (spec/44_handshake_messages.md). All
four go through `Chk` with a literal header byte and not through `Frame` (R174, 90_conflicts.md C10). -/

namespace Sys2Proof.Machine

/-- `TYPE` (R170). -/
def execType (sensorType : Byte) (s : State) : StepOutcome :=
  emit (.ok (chk [config.cbType, sensorType])) s

/-- `SPEED` (R171): the rate is little-endian. -/
def execSpeed (rate : Word) (s : State) : StepOutcome :=
  emit (.ok (chk ([config.cbSpeed] ++ leBytes 4 rate))) s

/-- `MODES` (R172): both counts go out less one, modulo 256. -/
def execModes (modeCount viewFlags : Byte) (s : State) : StepOutcome :=
  if modeCount.toNat > config.modesMax then emit (.error .tooManyModes) s
  else
    emit (.ok (chk [config.cbModes, countMinusOne modeCount.toNat,
      countMinusOne (viewCount modeCount viewFlags)])) s

/-- `VERSION` (R173): the two versions are big-endian, hardware first. -/
def execVersion (hw sw : Word) (s : State) : StepOutcome :=
  emit (.ok (chk ([config.cbVersion] ++ beBytes4 hw ++ beBytes4 sw))) s

end Sys2Proof.Machine
end

