-- ==== Sys2Proof/Machine/LengthClass.lean ====
section
/-! DEFINITION. The meanings of `LCSCALAR`, `LCARRAY`, `LCTEXT` and `LCVALID` (spec/42_length_class.md). -/

namespace Sys2Proof.Machine

/-- `LCSCALAR` (R132): `Respond(LcScalar(t))`. -/
def execLcscalar (t : TypeSel) (s : State) : StepOutcome :=
  query ((lcScalar t).map .number) s

/-- `LCARRAY` (R135): the type is checked before the empty count. -/
def execLcarray (t : TypeSel) (n : BitVec 16) (s : State) : StepOutcome :=
  match width t with
  | .error e => query (.error e) s
  | .ok w =>
    if n = 0 then query (.error .lengthClassInvalid) s
    else query (.ok (.pair (lcArray w n.toNat) (keep w n.toNat))) s

/-- `LCTEXT` (R138): a result above 4 is answered as computed. -/
def execLctext (n : BitVec 16) (s : State) : StepOutcome :=
  query (.ok (.number (lcText n.toNat))) s

/-- `LCVALID` (R140): an invalid pair is answered 0, not raised. -/
def execLcvalid (exp : Byte) (n : BitVec 16) (s : State) : StepOutcome :=
  query (.ok (.number (if lcValid exp.toNat n.toNat then 1 else 0))) s

end Sys2Proof.Machine
end

