-- ==== Sys2Proof/Machine/ModeDescriptor.lean ====
section
/-! DEFINITION. The meanings of the seven mode-descriptor operations `NAME`, `RAW`, `PCT`, `SI`, `UNITS`,
`MAPPING` and `FORMAT` (spec/45_mode_descriptor_messages.md). All are format M2 messages built by `Frame`. -/

namespace Sys2Proof.Machine

/-- The message of a text, padded, under sub-id `sub` (R190, R194). -/
def textMessage (sub idx : Byte) (text : Bytes) : Except FramerError Bytes :=
  frame config.cbInfo (lcText text.length) idx (some sub) (pad text)

/-- The message of a range, two binary32 patterns, minimum first, under sub-id `sub` (R198). -/
def rangeMessage (sub idx : Byte) (min max : Word) : Except FramerError Bytes :=
  frame config.cbInfo 3 idx (some sub) (leBytes 4 min ++ leBytes 4 max)

/-- `NAME` (R190). -/
def execName (idx : Byte) (bytes : Bytes) (s : State) : StepOutcome :=
  emit (textMessage config.subName idx bytes) s

/-- `RAW` (R191). -/
def execRaw (idx : Byte) (min max : Word) (s : State) : StepOutcome :=
  emit (rangeMessage config.subRaw idx min max) s

/-- `PCT` (R192). -/
def execPct (idx : Byte) (min max : Word) (s : State) : StepOutcome :=
  emit (rangeMessage config.subPct idx min max) s

/-- `SI` (R193). -/
def execSi (idx : Byte) (min max : Word) (s : State) : StepOutcome :=
  emit (rangeMessage config.subSi idx min max) s

/-- `UNITS` (R194). -/
def execUnits (idx : Byte) (bytes : Bytes) (s : State) : StepOutcome :=
  emit (textMessage config.subUnits idx bytes) s

/-- `MAPPING` (R195): input tag first. -/
def execMapping (idx mapIn mapOut : Byte) (s : State) : StepOutcome :=
  emit (frame config.cbInfo 1 idx (some config.subMapping) [mapIn, mapOut]) s

/-- `FORMAT` (R196): each field keeps its low 8 bits; the header is ORed onto 0x51 as it stands (R199). -/
def execFormat (idx : Byte) (sampleCount typeCode figures decimals : Word) (s : State) :
    StepOutcome :=
  emit (frame config.cbFormat 2 idx (some config.subFormat)
    [lowByte sampleCount, lowByte typeCode, lowByte figures, lowByte decimals]) s

end Sys2Proof.Machine
end

