-- ==== Sys2Proof/Machine/NumericCodec.lean ====
section
/-! DEFINITION. The meanings of `WIDTHOF` and `NENC` (spec/40_numeric_codec.md). -/

namespace Sys2Proof.Machine

/-- `WIDTHOF` (R101): `Respond(Width(t))`. -/
def execWidthof (t : TypeSel) (s : State) : StepOutcome :=
  query ((width t).map .number) s

/-- `NENC` (R110): `Respond(Enc(t, v))`. -/
def execNenc (t : TypeSel) (v : Word) (s : State) : StepOutcome :=
  query ((enc t v).map .bytes) s

end Sys2Proof.Machine
end

