-- ==== Sys2Proof/Machine/Dispatch.lean ====
section
/-! DEFINITION. One arm per operation of spec/30_encoding.md R74, in the table's order. -/

namespace Sys2Proof.Machine

def exec (i : Instr) (s : State) : Host.Outcome State Fault Refusal :=
  match i with
  | .widthof t => Sys2Proof.Machine.execWidthof t s
  | .nenc t v => Sys2Proof.Machine.execNenc t v s
  | .chkapp bytes => Sys2Proof.Machine.execChkapp bytes s
  | .hdrpack cb exp idx => Sys2Proof.Machine.execHdrpack cb exp idx s
  | .lcscalar t => Sys2Proof.Machine.execLcscalar t s
  | .lcarray t n => Sys2Proof.Machine.execLcarray t n s
  | .lctext n => Sys2Proof.Machine.execLctext n s
  | .lcvalid exp n => Sys2Proof.Machine.execLcvalid exp n s
  | .frame cb exp idx sub bytes => Sys2Proof.Machine.execFrame cb exp idx sub bytes s
  | .type sensorType => Sys2Proof.Machine.execType sensorType s
  | .speed rate => Sys2Proof.Machine.execSpeed rate s
  | .modes modeCount viewFlags => Sys2Proof.Machine.execModes modeCount viewFlags s
  | .version hw sw => Sys2Proof.Machine.execVersion hw sw s
  | .name idx bytes => Sys2Proof.Machine.execName idx bytes s
  | .raw idx min max => Sys2Proof.Machine.execRaw idx min max s
  | .pct idx min max => Sys2Proof.Machine.execPct idx min max s
  | .si idx min max => Sys2Proof.Machine.execSi idx min max s
  | .units idx bytes => Sys2Proof.Machine.execUnits idx bytes s
  | .mapping idx mapIn mapOut => Sys2Proof.Machine.execMapping idx mapIn mapOut s
  | .format idx sampleCount typeCode figures decimals => Sys2Proof.Machine.execFormat idx sampleCount typeCode figures decimals s
  | .datas t idx v => Sys2Proof.Machine.execDatas t idx v s
  | .dataa t idx vs => Sys2Proof.Machine.execDataa t idx vs s

end Sys2Proof.Machine
end

