-- ==== Sys2Proof/Machine/Step.lean ====
section
/-! DEFINITION. One step: the framer takes what the host presents next and runs it to completion
(spec/00_scope.md R4). It fetches nothing and has no program counter (spec/10_state.md R24). -/

namespace Sys2Proof.Machine

/-- One step. With nothing presented the framer stays as it is (notes/assumptions/3.md); a reset is
seen only between operations (R281); a command is decoded and executed, the host's remaining inputs left
for later steps; a reserved selector is refused (R75). -/
def step (s : State) : Host.Outcome State Fault Refusal :=
  match s.inputs with
  | [] => .next s
  | .reset :: rest => .next (State.resetWith rest)
  | .command c :: rest =>
    match decode c with
    | .ok i => exec i { s with inputs := rest }
    | .error (.reservedSelector opsel) => .refused (.reservedSelector opsel)

/-- `s` with the operation-table word `w` presented on the command port as the very next command. -/
def State.withFetchWord (s : State) (nbits w : Nat) : State :=
  { s with inputs := .command (commandOfTableWord nbits w) :: s.inputs }

end Sys2Proof.Machine
end

