-- ==== Sys2Proof/Machine/Sequences.lean ====
section
/-! DEFINITION. The two pseudo-operations (spec/47_sequences.md). They have no ordinal of their own (R79): each
is a fixed list of operations that the host, or a sequencer in front of the command port, issues one by one
and stops at the first that raises (R242). -/

namespace Sys2Proof.Machine

/-- The expansion of `SETUPMODE` (R240). -/
def setupMode (idx : Byte) (m : ModeDesc) : List Instr :=
  [ .name idx m.name,
    .raw idx m.rawMin m.rawMax,
    .pct idx m.pctMin m.pctMax,
    .si idx m.siMin m.siMax,
    .units idx m.unit,
    .mapping idx m.mapIn m.mapOut,
    .format idx m.sampleCount m.typeCode m.figures m.decimals ]

/-- The `viewFlags` operand of `HANDSHAKE`'s `MODES` (R241): bit `i` is the has-view flag of mode `i`,
for the first 8 modes; the other bits are 0. -/
def viewFlagsOf (modes : List ModeDesc) : Byte :=
  (modes.take 8).foldr (fun m acc => (acc <<< 1) ||| (if m.hasView then 1 else 0)) 0

/-- The `modeCount` operand (R241): a list of more than 255 modes presents 255. -/
def modeCountOf (modes : List ModeDesc) : Byte :=
  BitVec.ofNat 8 (Nat.min modes.length 255)

/-- `SETUPMODE` for each mode in index order, from index `k` on (R241). -/
def setupModesFrom : Nat → List ModeDesc → List Instr
  | _, [] => []
  | k, m :: ms => setupMode (BitVec.ofNat 8 (Nat.min k 255)) m ++ setupModesFrom (k + 1) ms

/-- The expansion of `HANDSHAKE` (R241). -/
def handshake (d : DeviceDesc) : List Instr :=
  [ .type d.sensorType,
    .speed d.rate,
    .modes (modeCountOf d.modes) (viewFlagsOf d.modes),
    .version d.hw d.sw ] ++ setupModesFrom 0 d.modes

/-- The record on the response port carries status OK. -/
def State.lastOk (s : State) : Bool :=
  match s.response with
  | some r => decide (r.status = statusOk)
  | none => false

/-- Issue operations one by one and stop at the first that raises (R242): earlier messages stay in the
sink, later operations are not issued, and the response port keeps the raising operation's status. -/
def runSequence : List Instr → State → StepOutcome
  | [], s => .next s
  | i :: rest, s =>
    match exec i s with
    | .next s' => if s'.lastOk then runSequence rest s' else .next s'
    | .fault r => .fault r
    | .refused r => .refused r

end Sys2Proof.Machine
end

