-- ==== Sys2Proof/Safety.lean ====
section
/-! DEFINITION. What claims call a legal message, a legal response and a legal state, and when a run has met no
error. -/

namespace Sys2Proof.Machine

/-- The lengths a message can have (spec/20_memory.md R47): 3, 4, 6, 10, 18 without a sub-id and 4, 5, 7,
11, 19 with one. -/
def messageLengths : List Nat := [3, 4, 5, 6, 7, 10, 11, 18, 19]

/-- A message as a receiver may rely on it: one of the lengths of R47, and the exclusive OR of all its
bytes, checksum included, is 0xFF (spec/41_checksum.md R122). -/
abbrev legalMessage (m : Bytes) : Prop :=
  m.length ∈ messageLengths ∧ m.foldl (· ^^^ ·) 0 = 0xFF

/-- A response record (spec/30_encoding.md R72, spec/60_exceptions.md R250): a status of 0..4, and a result
only with status OK. -/
abbrev legalResponse (r : Response) : Prop :=
  r.status.toNat ≤ 4 ∧ (r.result ≠ none → r.status = 0)

/-- The invariant of the framer: every message of the log is legal, `fault` holds one of its legal
values 0..4 (R26), the response port holds a legal record, and an error on the response port is
recorded in `fault` (R257). -/
abbrev State.Inv (s : State) : Prop :=
  (∀ m ∈ s.sink, legalMessage m) ∧ s.fault.toNat ≤ 4 ∧
    (∀ r ∈ s.response, legalResponse r) ∧ (∀ r ∈ s.response, r.status ≠ 0 → s.fault ≠ 0)

/-- "No error occurred" (R257): the premise a claim about a command stream takes. -/
abbrev State.noError (s : State) : Prop := s.fault = 0

/-- The host presents no reset among these inputs. -/
def noReset (inputs : List HostInput) : Bool :=
  inputs.all fun x => match x with
    | .command _ => true
    | .reset => false

/-- A safe run of `k` steps: it is never refused, and no error has been recorded at its end. -/
def safeRun (k : Nat) (s : State) : Prop :=
  ∃ t, Sys2Proof.core.run k s = .next t ∧ State.noError t

end Sys2Proof.Machine
end

