-- ==== Sys2Proof/Certificates/Slice0/Obligations.lean ====
section
/-! DEFINITION. The statements for the provers, in the order of the spec's files. They are written over the few
functions of `Sys2Proof.Claims` below, which say in their own words what the spec's rules say (a state after an
answer, after a write, after an error; the checksum as an accumulator; bytes by explicit bit ranges) and call no
function of the model that computes a message. -/

namespace Sys2Proof.Claims

open Sys2Proof.Machine

/-- The state after a query answered `r`: status 0 and the result; nothing else changes (R6 `Respond`). -/
def answered (s : State) (r : Result) : State :=
  { s with response := some { status := 0, result := some r } }

/-- The state after a message operation wrote `m`: one more write at the end of the log, status 0, no
result; nothing else changes (R41, R72). -/
def written (s : State) (m : Bytes) : State :=
  { s with sink := s.sink ++ [m], response := some { status := 0, result := none } }

/-- The state after an error with code `c`: the status is the code, `fault` takes it if it was 0;
nothing else changes (R255, R256, R257). -/
def failed (s : State) (c : BitVec 3) : State :=
  { s with fault := if s.fault = 0 then c else s.fault,
           response := some { status := c, result := none } }

/-- The checksum as R120's accumulator: start at 0xFF and XOR each byte in. -/
def checksum (b : Bytes) : Byte := b.foldl (· ^^^ ·) 0xFF

/-- A message: its bytes and then their checksum. -/
def sealed (b : Bytes) : Bytes := b ++ [checksum b]

/-- The low byte, two bytes, four bytes of a word, least significant first. -/
def le1 (v : Word) : Bytes := [v.extractLsb' 0 8]
def le2 (v : Word) : Bytes := [v.extractLsb' 0 8, v.extractLsb' 8 8]
def le4 (v : Word) : Bytes :=
  [v.extractLsb' 0 8, v.extractLsb' 8 8, v.extractLsb' 16 8, v.extractLsb' 24 8]

/-- The four bytes of a word, most significant first. -/
def be4 (v : Word) : Bytes :=
  [v.extractLsb' 24 8, v.extractLsb' 16 8, v.extractLsb' 8 8, v.extractLsb' 0 8]

/-- The width table of R100. -/
def byteWidth : NumericType → Nat
  | .int8 | .uint8 => 1
  | .int16 | .uint16 => 2
  | .int32 | .uint32 | .float32 => 4

/-- A word's wire bytes under a type, from the table of R100. -/
def wireBytes : NumericType → Word → Bytes
  | .int8, v | .uint8, v => le1 v
  | .int16, v | .uint16, v => le2 v
  | .int32, v | .uint32, v | .float32, v => le4 v

/-- The little-endian sum of R114. -/
def leSum (b : Bytes) : Nat := b.foldr (fun x acc => x.toNat + 256 * acc) 0

/-- `k` is the least exponent with `n ≤ 2^k` (R6 `Clog2`). -/
def leastExp (n k : Nat) : Prop := n ≤ 2 ^ k ∧ ∀ j, n ≤ 2 ^ j → k ≤ j

/-- `e` is the array length class of `len ≥ 1` bytes: rounded down and capped at 4 (R133). -/
def arrayExp (len e : Nat) : Prop := e ≤ 4 ∧ 2 ^ e ≤ len ∧ (e = 4 ∨ len < 2 ^ (e + 1))

/-- The ordinal of an operation (R74). -/
def ordinal (i : Instr) : Nat := (encode i).opsel.toNat

/-- The type operand of the six operations that have one (R72). -/
def typeOperand : Instr → Option TypeSel
  | .widthof t | .nenc t _ | .lcscalar t | .lcarray t _ | .datas t _ _ | .dataa t _ _ => some t
  | _ => none

/-- The field-index operand of the eleven operations that have one (R72). -/
def indexOperand : Instr → Option Byte
  | .hdrpack _ _ idx | .frame _ _ idx _ _ | .name idx _ | .raw idx _ _ | .pct idx _ _ | .si idx _ _
  | .units idx _ | .mapping idx _ _ | .format idx _ _ _ _ | .datas _ idx _ | .dataa _ idx _ => some idx
  | _ => none

/-- The four conditions of R254. -/
def breaksLengthClass : Instr → Prop
  | .hdrpack _ exp _ => 4 < exp.toNat
  | .frame _ exp _ _ bytes => 4 < exp.toNat ∨ bytes.length ≠ 2 ^ exp.toNat
  | .name _ text | .units _ text => 16 < text.length
  | .lcarray _ n => n = 0
  | .dataa _ _ vs => vs = []
  | _ => False

/-- The number of bytes that follow a header, read from the header alone (R69). -/
def follow (h : Byte) : Nat :=
  (if h.extractLsb' 6 2 = 2 ∨ h ∈ [0x51, 0x53, 0x55, 0x57] then 1 else 0)
    + 2 ^ (h.extractLsb' 3 3).toNat + 1

/-- The rows of R68's operation map, for the operations with a fixed command base: `h` is one of the row's
header values and, in format M2, `x` is its sub-id. -/
def headerRow : Instr → Byte → Byte → Prop
  | .type _, h, _ => h = 0x40
  | .speed _, h, _ => h = 0x52
  | .modes _ _, h, _ => h = 0x49
  | .version _ _, h, _ => h = 0x5F
  | .name _ _, h, x => 0x80 ≤ h.toNat ∧ h.toNat ≤ 0xA7 ∧ x = 0x00
  | .raw _ _ _, h, x => 0x98 ≤ h.toNat ∧ h.toNat ≤ 0x9F ∧ x = 0x01
  | .pct _ _ _, h, x => 0x98 ≤ h.toNat ∧ h.toNat ≤ 0x9F ∧ x = 0x02
  | .si _ _ _, h, x => 0x98 ≤ h.toNat ∧ h.toNat ≤ 0x9F ∧ x = 0x03
  | .units _ _, h, x => 0x80 ≤ h.toNat ∧ h.toNat ≤ 0xA7 ∧ x = 0x04
  | .mapping _ _ _, h, x => 0x88 ≤ h.toNat ∧ h.toNat ≤ 0x8F ∧ x = 0x05
  | .format _ _ _ _ _, h, x => h ∈ [0x51, 0x53, 0x55, 0x57] ∧ x = 0x80
  | .datas _ _ _, h, _ => 0xC0 ≤ h.toNat ∧ h.toNat ≤ 0xD7
  | .dataa _ _ _, h, _ => 0xC0 ≤ h.toNat ∧ h.toNat ≤ 0xE7
  | _, _, _ => False

/-- The length class of a text of at most 16 bytes, from the values of R136. -/
def textExp (n : Nat) : Nat :=
  if n ≤ 1 then 0 else if n ≤ 2 then 1 else if n ≤ 4 then 2 else if n ≤ 8 then 3 else 4

/-- A text message (R190, R194): header, sub-id, the text, zeros up to the length class, checksum. -/
def textMsg (idx sub : Byte) (text : Bytes) : Bytes :=
  sealed ([0x80 ||| BitVec.ofNat 8 (textExp text.length) <<< 3 ||| idx, sub] ++ text ++
    List.replicate (2 ^ textExp text.length - text.length) 0x00)

/-- A range message (R198): header, sub-id, minimum, maximum, checksum. -/
def rangeMsg (idx sub : Byte) (min max : Word) : Bytes :=
  sealed ([0x98 ||| idx, sub] ++ le4 min ++ le4 max)

/-- The seven messages of one mode, in the order of R240. -/
def setupMessages (idx : Byte) (m : ModeDesc) : List Bytes :=
  [ textMsg idx 0x00 m.name,
    rangeMsg idx 0x01 m.rawMin m.rawMax,
    rangeMsg idx 0x02 m.pctMin m.pctMax,
    rangeMsg idx 0x03 m.siMin m.siMax,
    textMsg idx 0x04 m.unit,
    sealed [0x88 ||| idx, 0x05, m.mapIn, m.mapOut],
    sealed ([0x51 ||| idx, 0x80] ++ le1 m.sampleCount ++ le1 m.typeCode ++ le1 m.figures ++
      le1 m.decimals) ]

/-- The four identity messages of a device, in the order of R241; the two bytes of the third are the number of
modes and the number of modes with a view, each less one modulo 256 (R172). -/
def identityMessages (d : DeviceDesc) : List Bytes :=
  [ sealed [0x40, d.sensorType],
    sealed (0x52 :: le4 d.rate),
    sealed [0x49, BitVec.ofInt 8 ((d.modes.length : Int) - 1),
      BitVec.ofInt 8 (((d.modes.filter ModeDesc.hasView).length : Int) - 1)],
    sealed (0x5F :: (be4 d.hw ++ be4 d.sw)) ]

/-- The messages of a handshake: the identity, then those of mode `k` under index `k`, for each `k` in order (R241). -/
def handshakeMessages (d : DeviceDesc) : List Bytes :=
  identityMessages d ++ d.modes.zipIdx.flatMap fun p => setupMessages (BitVec.ofNat 8 p.2) p.1

/-- The state after a sequence of message operations wrote `ms`: status 0, no result; nothing else changes. -/
def writtenAll (s : State) (ms : List Bytes) : State :=
  { s with sink := s.sink ++ ms, response := some { status := 0, result := none } }

/-- The host's inputs that present these operations one after another. -/
def presented (is : List Instr) : List HostInput := is.map fun i => .command (encode i)

end Sys2Proof.Claims

open Sys2Proof Sys2Proof.Machine Sys2Proof.Claims

/-! ### State and reset (10_state.md, 70_reset_and_hazards.md) -/

/-- R28, R280: the reset state. -/
def Obligations.ResetLeavesSinkEmptyAndFaultZero : Prop :=
  State.reset.sink = [] ∧ State.reset.fault = 0

/-- R22, R280, R281: a reset between operations empties the log and clears `fault`, from every state. That a reset
is one of the host's inputs, and that it leaves the host's later inputs to come and the response port without a
record, are the model's choices (notes/assumptions/1.md, notes/assumptions/2.md). -/
def Obligations.ResetInputClearsSinkAndFault : Prop :=
  ∀ (s : State) (rest : List HostInput), s.inputs = .reset :: rest →
    ∃ t, step s = .next t ∧ t.sink = [] ∧ t.fault = 0 ∧ t.response = none ∧ t.inputs = rest

/-- The invariant `State.Inv` holds at reset. Its clauses on `sink` and `fault` rest on R28 and R280; its two clauses on the
response record hold because the model's reset leaves no record on the port, which is the model's choice
(notes/assumptions/2.md). -/
def Obligations.ResetStateIsLegal : Prop := State.Inv State.reset

/-- Every step keeps the invariant: each message of the log has a length of R47 and XORs to 0xFF (R122), `fault` and the
response record are legal (R26, R72), and an error on the record is recorded in `fault` (R257). The clauses on the record
survive a reset only because the model's reset clears the record, which is the model's choice, as is a reset among the
host's inputs (notes/assumptions/2.md, notes/assumptions/1.md). -/
def Obligations.StepKeepsLegalState : Prop :=
  ∀ s t : State, State.Inv s → step s = .next t → State.Inv t

/-- R20: the response and the write of an operation are a function of its operands alone: from any two states
it answers the same record and appends the same bytes. -/
def Obligations.OperationsDependOnOperandsAlone : Prop :=
  ∀ (i : Instr) (s₁ s₂ : State), ∃ (t₁ t₂ : State) (ms : List Bytes),
    exec i s₁ = .next t₁ ∧ exec i s₂ = .next t₂ ∧ t₁.response = t₂.response ∧
      t₁.sink = s₁.sink ++ ms ∧ t₂.sink = s₂.sink ++ ms

/-- R21, R51: over any run without a reset the log only grows, by at most one message a step, and the wire stream
is extended by exactly those messages. -/
def Obligations.SinkOnlyGrowsAlongRuns : Prop :=
  ∀ (k : Nat) (s t : State), noReset s.inputs = true → Sys2Proof.core.run k s = .next t →
    ∃ ms : List Bytes, ms.length ≤ k ∧ t.sink = s.sink ++ ms ∧ t.wire = s.wire ++ ms.flatten

/-- R257: an operation that reports an error with code `c` puts `c` in `fault` if it held 0 and else leaves it; over any
run without a reset a nonzero `fault` stays as it is; a reset clears it. -/
def Obligations.FirstErrorIsKeptUntilReset : Prop :=
  (∀ (i : Instr) (s t : State) (r : Response), exec i s = .next t → t.response = some r →
    r.status ≠ 0 → t.fault = if s.fault = 0 then r.status else s.fault) ∧
  (∀ (k : Nat) (s t : State), noReset s.inputs = true → s.fault ≠ 0 →
    Sys2Proof.core.run k s = .next t → t.fault = s.fault) ∧
  ∀ (s t : State) (rest : List HostInput), s.inputs = .reset :: rest → step s = .next t →
    t.fault = 0

/-! ### The command port (30_encoding.md) -/

/-- R74, R73: each ordinal selects its operation with the operands of its row. -/
def Obligations.OrdinalsSelectTheirOperations : Prop :=
  ∀ c : Command,
    (c.opsel = 0 → decode c = .ok (.widthof (typeOfSelector c.t))) ∧
    (c.opsel = 1 → decode c = .ok (.nenc (typeOfSelector c.t) c.v)) ∧
    (c.opsel = 2 → decode c = .ok (.chkapp c.bytes)) ∧
    (c.opsel = 3 → decode c = .ok (.hdrpack c.cb c.exp c.idx)) ∧
    (c.opsel = 4 → decode c = .ok (.lcscalar (typeOfSelector c.t))) ∧
    (c.opsel = 5 → decode c = .ok (.lcarray (typeOfSelector c.t) c.n)) ∧
    (c.opsel = 6 → decode c = .ok (.lctext c.n)) ∧
    (c.opsel = 7 → decode c = .ok (.lcvalid c.exp c.n)) ∧
    (c.opsel = 8 → decode c = .ok (.frame c.cb c.exp c.idx c.sub c.bytes)) ∧
    (c.opsel = 9 → decode c = .ok (.type c.sensorType)) ∧
    (c.opsel = 10 → decode c = .ok (.speed c.rate)) ∧
    (c.opsel = 11 → decode c = .ok (.modes c.modeCount c.viewFlags)) ∧
    (c.opsel = 12 → decode c = .ok (.version c.hw c.sw)) ∧
    (c.opsel = 13 → decode c = .ok (.name c.idx c.bytes)) ∧
    (c.opsel = 14 → decode c = .ok (.raw c.idx c.min c.max)) ∧
    (c.opsel = 15 → decode c = .ok (.pct c.idx c.min c.max)) ∧
    (c.opsel = 16 → decode c = .ok (.si c.idx c.min c.max)) ∧
    (c.opsel = 17 → decode c = .ok (.units c.idx c.bytes)) ∧
    (c.opsel = 18 → decode c = .ok (.mapping c.idx c.mapIn c.mapOut)) ∧
    (c.opsel = 19 →
      decode c = .ok (.format c.idx c.sampleCount c.typeCode c.figures c.decimals)) ∧
    (c.opsel = 20 → decode c = .ok (.datas (typeOfSelector c.t) c.idx c.v)) ∧
    (c.opsel = 21 → decode c = .ok (.dataa (typeOfSelector c.t) c.idx c.vs))

/-- R73: the type selector codes; 7 is not a type, and every operation that uses `t` and receives it raises `InvalidType`
(code 1). -/
def Obligations.SelectorSevenIsTheOnlyInvalidType : Prop :=
  typeOfSelector 0 = some .int8 ∧ typeOfSelector 1 = some .uint8 ∧
    typeOfSelector 2 = some .int16 ∧ typeOfSelector 3 = some .uint16 ∧
    typeOfSelector 4 = some .int32 ∧ typeOfSelector 5 = some .uint32 ∧
    typeOfSelector 6 = some .float32 ∧ typeOfSelector 7 = none ∧
    ∀ (c : Command) (i : Instr) (s : State), decode c = .ok i → typeOperand i ≠ none → c.t = 7 →
      exec i s = .next (failed s 1)

/-- Decoding the record of any operation gives the operation back, with every operand. -/
def Obligations.DecodeOfEncodeIsTheOperation : Prop :=
  ∀ i : Instr, decode (encode i) = .ok i

/-- R72: "A field not listed for an operation is ignored by it": two records that agree on `opsel` and on the
fields whose "used by" column names that operation decode alike. -/
def Obligations.UnlistedFieldsAreIgnored : Prop :=
  ∀ c d : Command, c.opsel = d.opsel →
    (c.opsel ∈ [0, 1, 4, 5, 20, 21] → c.t = d.t) →
    (c.opsel ∈ [3, 8] → c.cb = d.cb) →
    (c.opsel ∈ [3, 8, 7] → c.exp = d.exp) →
    (c.opsel ∈ [3, 8, 13, 14, 15, 16, 17, 18, 19, 20, 21] → c.idx = d.idx) →
    (c.opsel ∈ [8] → c.sub = d.sub) →
    (c.opsel ∈ [2, 8, 13, 17] → c.bytes = d.bytes) →
    (c.opsel ∈ [1, 20] → c.v = d.v) →
    (c.opsel ∈ [21] → c.vs = d.vs) →
    (c.opsel ∈ [5, 6, 7] → c.n = d.n) →
    (c.opsel ∈ [9] → c.sensorType = d.sensorType) →
    (c.opsel ∈ [10] → c.rate = d.rate) →
    (c.opsel ∈ [11] → c.modeCount = d.modeCount ∧ c.viewFlags = d.viewFlags) →
    (c.opsel ∈ [12] → c.hw = d.hw ∧ c.sw = d.sw) →
    (c.opsel ∈ [14, 15, 16] → c.min = d.min ∧ c.max = d.max) →
    (c.opsel ∈ [18] → c.mapIn = d.mapIn ∧ c.mapOut = d.mapOut) →
    (c.opsel ∈ [19] → c.sampleCount = d.sampleCount ∧ c.typeCode = d.typeCode ∧
      c.figures = d.figures ∧ c.decimals = d.decimals) →
    decode c = decode d

/-- R75: exactly the ordinals 22..31 are rejected by the decoder, and the machine refuses such a command. -/
def Obligations.ReservedSelectorsAreRefused : Prop :=
  (∀ c : Command, decode c = .error (.reservedSelector c.opsel) ↔ 22 ≤ c.opsel.toNat) ∧
  ∀ (s : State) (c : Command) (rest : List HostInput), s.inputs = .command c :: rest →
    22 ≤ c.opsel.toNat → step s = .refused (.reservedSelector c.opsel)

/-- A step runs the decoded operation, on the state from which the command has been taken; with nothing presented
the state stays as it is (the model's choice, notes/assumptions/3.md). -/
def Obligations.StepRunsTheDecodedOperation : Prop :=
  (∀ (s : State) (c : Command) (rest : List HostInput) (i : Instr),
    s.inputs = .command c :: rest → decode c = .ok i → step s = exec i { s with inputs := rest }) ∧
  ∀ s : State, s.inputs = [] → step s = .next s

/-- Table words of five ordinals, their five `opsel` bits written out from R74, decode to their operations, and one reserved word
to none. That the operand fields of a table word are zero, empty or absent is the model's choice
(notes/assumptions/6.md). -/
def Obligations.TableWordsDecode : Prop :=
  decodeTableWord 8 0b00000 = some (.widthof (some .int8)) ∧
    decodeTableWord 8 0b01000 = some (.frame 0 0 0 none []) ∧
    decodeTableWord 8 0b01011 = some (.modes 0 0) ∧
    decodeTableWord 8 0b10011 = some (.format 0 0 0 0 0) ∧
    decodeTableWord 8 0b10101 = some (.dataa (some .int8) 0 []) ∧
    decodeTableWord 8 0b10110 = none

/-! ### Numeric codec (40_numeric_codec.md) -/

/-- R101. -/
def Obligations.WidthofRespondsWithTheWidthTable : Prop :=
  ∀ s : State,
    exec (.widthof (some .int8)) s = .next (answered s (.number 1)) ∧
    exec (.widthof (some .uint8)) s = .next (answered s (.number 1)) ∧
    exec (.widthof (some .int16)) s = .next (answered s (.number 2)) ∧
    exec (.widthof (some .uint16)) s = .next (answered s (.number 2)) ∧
    exec (.widthof (some .int32)) s = .next (answered s (.number 4)) ∧
    exec (.widthof (some .uint32)) s = .next (answered s (.number 4)) ∧
    exec (.widthof (some .float32)) s = .next (answered s (.number 4)) ∧
    exec (.widthof none) s = .next (failed s 1) ∧
    ∀ t, ordinal (.widthof t) = 0

/-- R102, R110: the low bytes of the word, least significant first, the same for the types of one width; only
selector 7 raises. -/
def Obligations.NencRespondsWithLowBytesLittleEndian : Prop :=
  ∀ (s : State) (v : Word),
    exec (.nenc (some .int8) v) s = .next (answered s (.bytes (le1 v))) ∧
    exec (.nenc (some .uint8) v) s = .next (answered s (.bytes (le1 v))) ∧
    exec (.nenc (some .int16) v) s = .next (answered s (.bytes (le2 v))) ∧
    exec (.nenc (some .uint16) v) s = .next (answered s (.bytes (le2 v))) ∧
    exec (.nenc (some .int32) v) s = .next (answered s (.bytes (le4 v))) ∧
    exec (.nenc (some .uint32) v) s = .next (answered s (.bytes (le4 v))) ∧
    exec (.nenc (some .float32) v) s = .next (answered s (.bytes (le4 v))) ∧
    exec (.nenc none v) s = .next (failed s 1) ∧
    ∀ t, ordinal (.nenc t v) = 1

/-- R114: the little-endian sum of the answered bytes is the word modulo `2^(8w)`; their number is the width. -/
def Obligations.NencBytesSumBackToTheWord : Prop :=
  ∀ (ty : NumericType) (v : Word) (s : State), ∃ b : Bytes,
    exec (.nenc (some ty) v) s = .next (answered s (.bytes b)) ∧
      b.length = byteWidth ty ∧ leSum b = v.toNat % 2 ^ (8 * byteWidth ty)

/-- R111: an integer in the range of a signed type, carried as a 32-bit word, is read back from the answered bytes as
two's complement; an integer outside any range wraps modulo `2^(8w)`. -/
def Obligations.NencCarriesIntegersAsTwosComplement : Prop :=
  ∀ (ty : NumericType) (k : Int) (s : State), ∃ b : Bytes,
    exec (.nenc (some ty) (BitVec.ofInt 32 k)) s = .next (answered s (.bytes b)) ∧
      (leSum b : Int) = k % 2 ^ (8 * byteWidth ty) ∧
      (-(2 ^ (8 * byteWidth ty - 1)) ≤ k → k < 2 ^ (8 * byteWidth ty - 1) →
        (if 2 ^ (8 * byteWidth ty - 1) ≤ leSum b then (leSum b : Int) - 2 ^ (8 * byteWidth ty)
          else (leSum b : Int)) = k)

/-! ### Checksum (41_checksum.md) -/

/-- R120, R121: `CHKAPP` answers the input and then its checksum; the bytes may be accumulated in any order; the empty
input answers one byte 0xFF, a second checksum is 0x00. -/
def Obligations.ChkappAppendsTheChecksum : Prop :=
  ∀ (b : Bytes) (s : State),
    (∀ p : Bytes, p.Perm b → exec (.chkapp b) s = .next (answered s (.bytes (b ++ [checksum p])))) ∧
    exec (.chkapp b) s =
      .next (answered s (.bytes (b ++ [b.foldr (fun x acc => x ^^^ acc) 0 ^^^ 0xFF]))) ∧
    exec (.chkapp []) s = .next (answered s (.bytes [0xFF])) ∧
    exec (.chkapp (sealed b)) s = .next (answered s (.bytes (sealed b ++ [0x00]))) ∧
    ordinal (.chkapp b) = 2

/-- R122: the answer is one byte longer than the input and the exclusive OR of all its bytes is 0xFF. -/
def Obligations.ChkappAnswerXorsToFF : Prop :=
  ∀ (b : Bytes) (s : State), ∃ r : Bytes, exec (.chkapp b) s = .next (answered s (.bytes r)) ∧
    r.length = b.length + 1 ∧ r.foldl (· ^^^ ·) 0 = 0xFF

/-! ### Length class (42_length_class.md) -/

/-- R131, R132. -/
def Obligations.LcscalarRespondsWithLogOfWidth : Prop :=
  ∀ s : State,
    (∀ ty : NumericType, ∃ e, exec (.lcscalar (some ty)) s = .next (answered s (.number e)) ∧
      2 ^ e = byteWidth ty) ∧
    exec (.lcscalar none) s = .next (failed s 1) ∧
    ∀ t, ordinal (.lcscalar t) = 4

/-- R133, R134, R135: the exponent is rounded down and capped at 4, the kept count is what fits; selector 7 comes
before an empty count. -/
def Obligations.LcarrayRoundsDownAndCountsKept : Prop :=
  ∀ (n : BitVec 16) (s : State),
    (∀ ty : NumericType, n ≠ 0 → ∃ e k : Nat,
      exec (.lcarray (some ty) n) s = .next (answered s (.pair e k)) ∧
      arrayExp (byteWidth ty * n.toNat) e ∧
      (2 ^ e < byteWidth ty * n.toNat → k = 2 ^ e / byteWidth ty) ∧
      (byteWidth ty * n.toNat ≤ 2 ^ e → k = n.toNat)) ∧
    (∀ ty : NumericType, exec (.lcarray (some ty) 0) s = .next (failed s 4)) ∧
    exec (.lcarray none n) s = .next (failed s 1) ∧
    ∀ t, ordinal (.lcarray t n) = 5

/-- R141 (b), (c), (e): the kept elements fill the length class exactly, one element is the scalar's class, and
elements are dropped exactly when the byte length is no power of two or exceeds 16. -/
def Obligations.LcarrayAnswerFillsTheLengthClass : Prop :=
  ∀ (ty : NumericType) (n : BitVec 16) (s : State), n ≠ 0 → ∃ e k : Nat,
    exec (.lcarray (some ty) n) s = .next (answered s (.pair e k)) ∧
    k * byteWidth ty = 2 ^ e ∧ 1 ≤ k ∧ k ≤ 16 ∧ k ≤ n.toNat ∧
    (n = 1 → k = 1 ∧ exec (.lcscalar (some ty)) s = .next (answered s (.number e))) ∧
    (k < n.toNat ↔ (¬ ∃ j, byteWidth ty * n.toNat = 2 ^ j) ∨ 16 < byteWidth ty * n.toNat)

/-- R136, R138: the least `k` with `2^k ≥ n`, returned even above 4. -/
def Obligations.LctextRoundsUp : Prop :=
  ∀ (n : BitVec 16) (s : State), (∃ k, exec (.lctext n) s = .next (answered s (.number k)) ∧
    leastExp n.toNat k ∧ k ≤ 16) ∧ ordinal (.lctext n) = 6

/-- R139, R140: 1 for the five legal pairs and 0 for every other. -/
def Obligations.LcvalidAcceptsTheFivePairs : Prop :=
  ∀ (exp : Byte) (n : BitVec 16) (s : State),
    exec (.lcvalid exp n) s = .next (answered s (.number
      (if (exp.toNat, n.toNat) ∈ [(0, 1), (1, 2), (2, 4), (3, 8), (4, 16)] then 1 else 0))) ∧
    ordinal (.lcvalid exp n) = 7

/-! ### Header and framer (43_framer.md) -/

/-- R150, R151: the index is checked first, then the exponent; otherwise the bitwise OR. -/
def Obligations.HdrpackOrsTheFields : Prop :=
  ∀ (cb exp idx : Byte) (s : State),
    (7 < idx.toNat → exec (.hdrpack cb exp idx) s = .next (failed s 2)) ∧
    (idx.toNat ≤ 7 → 4 < exp.toNat → exec (.hdrpack cb exp idx) s = .next (failed s 4)) ∧
    (idx.toNat ≤ 7 → exp.toNat ≤ 4 →
      exec (.hdrpack cb exp idx) s = .next (answered s (.byte (cb ||| exp <<< 3 ||| idx)))) ∧
    ordinal (.hdrpack cb exp idx) = 3

/-- R154: a command base with zero low 6 bits lets a receiver unpack the three fields. -/
def Obligations.HeaderUnpacksForAlignedBases : Prop :=
  ∀ (cb exp idx : Byte) (s : State), idx.toNat ≤ 7 → exp.toNat ≤ 4 → cb.extractLsb' 0 6 = 0 →
    ∃ h : Byte, exec (.hdrpack cb exp idx) s = .next (answered s (.byte h)) ∧
      h &&& 0x07 = idx ∧ (h >>> 3) &&& 0x07 = exp ∧ h >>> 6 = cb >>> 6

/-- R155, R287: bits of the command base are never cleared, and with base 0x51 and exponent 2 the index loses its bit 0
while the length class reads back. The spec marks R155 as derived from R150 and R62. -/
def Obligations.HeaderKeepsBitsOfTheBase : Prop :=
  (∀ (cb exp idx : Byte) (s : State), idx.toNat ≤ 7 → exp.toNat ≤ 4 →
    ∃ h : Byte, exec (.hdrpack cb exp idx) s = .next (answered s (.byte h)) ∧ h &&& cb = cb) ∧
  ∀ (idx : Byte) (s : State), idx.toNat ≤ 7 →
    ∃ h : Byte, exec (.hdrpack 0x51 2 idx) s = .next (answered s (.byte h)) ∧
      exec (.hdrpack 0x51 2 (idx ||| 1)) s = .next (answered s (.byte h)) ∧
      (h >>> 3) &&& 0x07 = 2

/-- R152: on a legal request one message `[header] ++ sub ++ data ++ [checksum]` is written; otherwise the first failing
check is reported and nothing is written. -/
def Obligations.FrameWritesOneMessageOrFails : Prop :=
  ∀ (cb exp idx : Byte) (sub : Option Byte) (data : Bytes) (s : State),
    (7 < idx.toNat → exec (.frame cb exp idx sub data) s = .next (failed s 2)) ∧
    (idx.toNat ≤ 7 → (4 < exp.toNat ∨ data.length ≠ 2 ^ exp.toNat) →
      exec (.frame cb exp idx sub data) s = .next (failed s 4)) ∧
    (idx.toNat ≤ 7 → exp.toNat ≤ 4 → data.length = 2 ^ exp.toNat →
      exec (.frame cb exp idx sub data) s =
        .next (written s (sealed ([cb ||| exp <<< 3 ||| idx] ++ sub.toList ++ data)))) ∧
    ordinal (.frame cb exp idx sub data) = 8

/-- R152's composition law: where `LCVALID` answers 1 for the data, `HDRPACK` answers a header and `CHKAPP` of the body
answers exactly the message that `FRAME` writes; the body fits the smallest command port. -/
def Obligations.FrameIsChkappOfHeaderAndPayload : Prop :=
  ∀ (cb exp idx : Byte) (sub : Option Byte) (data : Bytes) (s : State), idx.toNat ≤ 7 →
    data.length < 2 ^ 16 →
    exec (.lcvalid exp (BitVec.ofNat 16 data.length)) s = .next (answered s (.number 1)) →
    ∃ (h : Byte) (m : Bytes), exec (.hdrpack cb exp idx) s = .next (answered s (.byte h)) ∧
      exec (.chkapp ([h] ++ sub.toList ++ data)) s = .next (answered s (.bytes m)) ∧
      exec (.frame cb exp idx sub data) s = .next (written s m) ∧
      Instr.wellFormed PortBounds.smallest (.chkapp ([h] ++ sub.toList ++ data)) = true

/-! ### Handshake messages (44_handshake_messages.md) -/

/-- R170. -/
def Obligations.TypeWritesTheSensorType : Prop :=
  ∀ (x : Byte) (s : State),
    exec (.type x) s = .next (written s [0x40, x, 0x40 ^^^ x ^^^ 0xFF]) ∧ ordinal (.type x) = 9

/-- R171. -/
def Obligations.SpeedWritesTheRateLittleEndian : Prop :=
  ∀ (rate : Word) (s : State),
    exec (.speed rate) s = .next (written s (sealed (0x52 :: le4 rate))) ∧ ordinal (.speed rate) = 10

/-- R172: above 8 modes `TooManyModes`; otherwise both counts less one, modulo 256, with the views counted among the
first `modeCount` flags only. -/
def Obligations.ModesWritesCountsLessOne : Prop :=
  ∀ (modeCount viewFlags : Byte) (s : State),
    (8 < modeCount.toNat → exec (.modes modeCount viewFlags) s = .next (failed s 3)) ∧
    (modeCount.toNat ≤ 8 → exec (.modes modeCount viewFlags) s =
      .next (written s (sealed [0x49, BitVec.ofInt 8 ((modeCount.toNat : Int) - 1),
        BitVec.ofInt 8
          ((((List.range modeCount.toNat).filter fun i => viewFlags.getLsbD i).length : Int) - 1)]))) ∧
    ordinal (.modes modeCount viewFlags) = 11

/-- R173: the versions are big-endian, hardware first. -/
def Obligations.VersionWritesBigEndian : Prop :=
  ∀ (hw sw : Word) (s : State),
    exec (.version hw sw) s = .next (written s (sealed (0x5F :: (be4 hw ++ be4 sw)))) ∧
      ordinal (.version hw sw) = 12

/-! ### Mode descriptors (45_mode_descriptor_messages.md) -/

/-- R190, with R136 and R137: the text is padded with zeros to the least power of two; over 16 bytes it is rejected,
after the index. -/
def Obligations.NameWritesPaddedText : Prop :=
  ∀ (idx : Byte) (text : Bytes) (s : State),
    (7 < idx.toNat → exec (.name idx text) s = .next (failed s 2)) ∧
    (idx.toNat ≤ 7 → 16 < text.length → exec (.name idx text) s = .next (failed s 4)) ∧
    (idx.toNat ≤ 7 → text.length ≤ 16 → ∃ k, leastExp text.length k ∧
      exec (.name idx text) s = .next (written s (sealed
        ([0x80 ||| BitVec.ofNat 8 k <<< 3 ||| idx, 0x00] ++ text ++
          List.replicate (2 ^ k - text.length) 0x00)))) ∧
    ordinal (.name idx text) = 13

/-- R194: the same with sub-id 0x04. -/
def Obligations.UnitsWritesPaddedText : Prop :=
  ∀ (idx : Byte) (text : Bytes) (s : State),
    (7 < idx.toNat → exec (.units idx text) s = .next (failed s 2)) ∧
    (idx.toNat ≤ 7 → 16 < text.length → exec (.units idx text) s = .next (failed s 4)) ∧
    (idx.toNat ≤ 7 → text.length ≤ 16 → ∃ k, leastExp text.length k ∧
      exec (.units idx text) s = .next (written s (sealed
        ([0x80 ||| BitVec.ofNat 8 k <<< 3 ||| idx, 0x04] ++ text ++
          List.replicate (2 ^ k - text.length) 0x00)))) ∧
    ordinal (.units idx text) = 17

/-- R191, R192, R193, R198: header `0x98 | idx`, the sub-id, then the two patterns, minimum first, each little-endian. -/
def Obligations.RangesWriteMinimumThenMaximum : Prop :=
  ∀ (idx : Byte) (min max : Word) (s : State),
    (7 < idx.toNat → exec (.raw idx min max) s = .next (failed s 2) ∧
      exec (.pct idx min max) s = .next (failed s 2) ∧
      exec (.si idx min max) s = .next (failed s 2)) ∧
    (idx.toNat ≤ 7 →
      exec (.raw idx min max) s =
        .next (written s (sealed ([0x98 ||| idx, 0x01] ++ le4 min ++ le4 max))) ∧
      exec (.pct idx min max) s =
        .next (written s (sealed ([0x98 ||| idx, 0x02] ++ le4 min ++ le4 max))) ∧
      exec (.si idx min max) s =
        .next (written s (sealed ([0x98 ||| idx, 0x03] ++ le4 min ++ le4 max)))) ∧
    ordinal (.raw idx min max) = 14 ∧ ordinal (.pct idx min max) = 15 ∧
    ordinal (.si idx min max) = 16

/-- R195. -/
def Obligations.MappingWritesInputTagFirst : Prop :=
  ∀ (idx mapIn mapOut : Byte) (s : State),
    (7 < idx.toNat → exec (.mapping idx mapIn mapOut) s = .next (failed s 2)) ∧
    (idx.toNat ≤ 7 → exec (.mapping idx mapIn mapOut) s =
      .next (written s (sealed [0x88 ||| idx, 0x05, mapIn, mapOut]))) ∧
    ordinal (.mapping idx mapIn mapOut) = 18

/-- R196: each word keeps its low 8 bits and the header is `0x51 | idx`. -/
def Obligations.FormatWritesLowBytes : Prop :=
  ∀ (idx : Byte) (sampleCount typeCode figures decimals : Word) (s : State),
    (7 < idx.toNat →
      exec (.format idx sampleCount typeCode figures decimals) s = .next (failed s 2)) ∧
    (idx.toNat ≤ 7 → exec (.format idx sampleCount typeCode figures decimals) s =
      .next (written s (sealed [0x51 ||| idx, 0x80,
        BitVec.ofNat 8 (sampleCount &&& 0xFF).toNat, BitVec.ofNat 8 (typeCode &&& 0xFF).toNat,
        BitVec.ofNat 8 (figures &&& 0xFF).toNat, BitVec.ofNat 8 (decimals &&& 0xFF).toNat]))) ∧
    ordinal (.format idx sampleCount typeCode figures decimals) = 19

/-- R199, R286: the `FORMAT` header is 0x51, 0x53, 0x55 or 0x57 for the index pairs, so the messages of modes `2j` and
`2j + 1` with equal fields are equal. -/
def Obligations.FormatHeaderLosesBitZeroOfIndex : Prop :=
  ∀ (j : Nat) (a b c d : Word) (s : State), j ≤ 3 → ∃ rest : Bytes,
    exec (.format (BitVec.ofNat 8 (2 * j)) a b c d) s =
      .next (written s (BitVec.ofNat 8 (0x51 + 2 * j) :: rest)) ∧
    exec (.format (BitVec.ofNat 8 (2 * j + 1)) a b c d) s =
      .next (written s (BitVec.ofNat 8 (0x51 + 2 * j) :: rest))

/-! ### Data telegram (46_data_telegram.md) -/

/-- R220: the type is checked first, then the index; the header is 0xC0, 0xC8 or 0xD0 with the index. -/
def Obligations.DatasWritesTheScalar : Prop :=
  ∀ (idx : Byte) (v : Word) (s : State),
    exec (.datas none idx v) s = .next (failed s 1) ∧
    (7 < idx.toNat → ∀ ty, exec (.datas (some ty) idx v) s = .next (failed s 2)) ∧
    (idx.toNat ≤ 7 →
      (∀ ty, byteWidth ty = 1 →
        exec (.datas (some ty) idx v) s = .next (written s (sealed ((0xC0 ||| idx) :: le1 v)))) ∧
      (∀ ty, byteWidth ty = 2 →
        exec (.datas (some ty) idx v) s = .next (written s (sealed ((0xC8 ||| idx) :: le2 v)))) ∧
      (∀ ty, byteWidth ty = 4 →
        exec (.datas (some ty) idx v) s = .next (written s (sealed ((0xD0 ||| idx) :: le4 v))))) ∧
    ∀ t, ordinal (.datas t idx v) = 20

/-- R221, R224: the leading elements that fit, in input order, under the rounded-down length class; the checks in
R221's order. -/
def Obligations.DataaWritesLeadingElements : Prop :=
  ∀ (idx : Byte) (vs : List Word) (s : State),
    exec (.dataa none idx vs) s = .next (failed s 1) ∧
    (∀ ty : NumericType,
      (7 < idx.toNat → exec (.dataa (some ty) idx vs) s = .next (failed s 2)) ∧
      (idx.toNat ≤ 7 → vs = [] → exec (.dataa (some ty) idx vs) s = .next (failed s 4)) ∧
      (idx.toNat ≤ 7 → vs ≠ [] → ∃ e k : Nat,
        arrayExp (byteWidth ty * vs.length) e ∧
        (2 ^ e < byteWidth ty * vs.length → k = 2 ^ e / byteWidth ty) ∧
        (byteWidth ty * vs.length ≤ 2 ^ e → k = vs.length) ∧
        exec (.dataa (some ty) idx vs) s = .next (written s (sealed
          ((0xC0 ||| BitVec.ofNat 8 e <<< 3 ||| idx) ::
            ((vs.take k).map (wireBytes ty)).flatten))))) ∧
    ∀ t, ordinal (.dataa t idx vs) = 21

/-- R222: an array of one element is the scalar, in the message it writes and in the cases it raises. -/
def Obligations.OneElementArrayIsTheScalar : Prop :=
  ∀ (t : TypeSel) (idx : Byte) (v : Word) (s : State),
    exec (.dataa t idx [v]) s = exec (.datas t idx v) s

/-- R223, R285: truncation is silent, and what `LCARRAY` answers beforehand is what `DATAA` keeps: the message is that of
the first `k` elements, whatever the dropped ones are. -/
def Obligations.DroppedElementsLeaveNoTrace : Prop :=
  ∀ (ty : NumericType) (idx : Byte) (vs : List Word) (s : State) (e k : Nat), idx.toNat ≤ 7 →
    vs ≠ [] → vs.length < 2 ^ 16 →
    exec (.lcarray (some ty) (BitVec.ofNat 16 vs.length)) s = .next (answered s (.pair e k)) →
    exec (.dataa (some ty) idx vs) s = exec (.dataa (some ty) idx (vs.take k)) s ∧
    ∃ m, exec (.dataa (some ty) idx vs) s = .next (written s m) ∧ m.length = 2 ^ e + 2

/-! ### Errors (60_exceptions.md) and all operations -/

/-- R243, R295: every operation, in every state and with every operand, completes: it answers a next state with a record
on the response port. -/
def Obligations.EveryOperationCompletes : Prop :=
  ∀ (i : Instr) (s : State), ∃ (t : State) (r : Response), exec i s = .next t ∧ t.response = some r

/-- R255, R260: an operation that reports an error (a nonzero status) has written nothing and answers no result: all it has
changed are the response record and, by R257, `fault`. -/
def Obligations.RaisingChangesOnlyStatusAndFault : Prop :=
  ∀ (i : Instr) (s t : State) (r : Response), exec i s = .next t → t.response = some r →
    r.status ≠ 0 → t = failed s r.status ∧ r.status.toNat ≤ 4

/-- R41, R72: an operation that succeeds leaves `fault` and the host's inputs unchanged; a query (ordinals 0..7) also leaves
the log unchanged and answers a result, a message operation (ordinals 8..21) appends exactly one message and answers none.
That the host's inputs stand in the state is the model's choice (notes/assumptions/1.md). -/
def Obligations.SuccessAnswersOrWritesOnce : Prop :=
  ∀ (i : Instr) (s t : State) (r : Response), exec i s = .next t → t.response = some r →
    r.status = 0 → t.fault = s.fault ∧ t.inputs = s.inputs ∧
      (ordinal i ≤ 7 → t.sink = s.sink ∧ r.result ≠ none) ∧
      (8 ≤ ordinal i → r.result = none ∧ ∃ m : Bytes, t.sink = s.sink ++ [m])

/-- R49: a message operation issued twice appends its message twice. -/
def Obligations.IssuingTwiceAppendsTwoMessages : Prop :=
  ∀ (i : Instr) (s t : State) (m : Bytes), exec i s = .next t → t.sink = s.sink ++ [m] →
    ∃ u, exec i t = .next u ∧ u.sink = s.sink ++ [m, m]

/-- R251, R252, R253, R258: which operation reports which of the first three errors, and when: `InvalidType` before
`FieldIndexOutOfRange`, `TooManyModes` from `MODES` alone. -/
def Obligations.FirstThreeErrorsAndTheirConditions : Prop :=
  ∀ (i : Instr) (s t : State) (r : Response), exec i s = .next t → t.response = some r →
    (r.status = 1 ↔ typeOperand i = some none) ∧
    (r.status = 2 ↔ typeOperand i ≠ some none ∧ ∃ x, indexOperand i = some x ∧ 7 < x.toNat) ∧
    (r.status = 3 ↔ ∃ n f, i = .modes n f ∧ 8 < n.toNat)

/-- R254, R258: `LengthClassInvalid` is reported exactly in the four cases of R254 when neither the type nor the index fails
first. -/
def Obligations.LengthClassInvalidAndItsConditions : Prop :=
  ∀ (i : Instr) (s t : State) (r : Response), exec i s = .next t → t.response = some r →
    (r.status = 4 ↔ breaksLengthClass i ∧ typeOperand i ≠ some none ∧
      ∀ x, indexOperand i = some x → x.toNat ≤ 7)

/-- R262: after an error the framer executes the next operation as if none had occurred: the second operation answers the same
record and appends the same bytes whether or not the first was issued. -/
def Obligations.NextOperationIgnoresAnEarlierError : Prop :=
  ∀ (i j : Instr) (s t : State) (r : Response), exec i s = .next t → t.response = some r →
    r.status ≠ 0 → ∃ u v : State, exec j s = .next u ∧ exec j t = .next v ∧
      u.response = v.response ∧ u.sink = v.sink

/-! ### Messages on the wire (20_memory.md, 30_encoding.md) -/

/-- R69: for every operation but `FRAME`, the header alone tells how many bytes follow it. -/
def Obligations.HeaderTellsTheMessageLength : Prop :=
  ∀ (i : Instr) (s t : State) (m : Bytes), ordinal i ≠ 8 → exec i s = .next t →
    t.sink = s.sink ++ [m] → ∃ h rest, m = h :: rest ∧ rest.length = follow h

/-- R68, R71: the header and, for a message with a sub-id, the sub-id of each message operation but `FRAME` are those of its
row in the operation map. -/
def Obligations.HeadersFollowTheOperationMap : Prop :=
  ∀ (i : Instr) (s t : State) (m : Bytes), ordinal i ≠ 8 → exec i s = .next t →
    t.sink = s.sink ++ [m] → ∃ h x rest, m = h :: x :: rest ∧ headerRow i h x

/-! ### Sequences (47_sequences.md) -/

/-- R240: with a legal index and both texts at most 16 bytes, `SETUPMODE` writes its seven messages in order, each from `idx`
and the mode's own fields, and changes nothing else but the response port. -/
def Obligations.SetupModeWritesSevenMessages : Prop :=
  ∀ (idx : Byte) (m : ModeDesc) (s : State), idx.toNat ≤ 7 → m.name.length ≤ 16 →
    m.unit.length ≤ 16 →
    runSequence (setupMode idx m) s = .next (writtenAll s (setupMessages idx m))

/-- R240, R242: an illegal index or an over-long name stops `SETUPMODE` with nothing written; an over-long unit stops it after
the first four messages. -/
def Obligations.SetupModeStopsAtTheFirstError : Prop :=
  ∀ (idx : Byte) (m : ModeDesc) (s : State),
    (7 < idx.toNat → runSequence (setupMode idx m) s = .next (failed s 2)) ∧
    (idx.toNat ≤ 7 → 16 < m.name.length → runSequence (setupMode idx m) s = .next (failed s 4)) ∧
    (idx.toNat ≤ 7 → m.name.length ≤ 16 → 16 < m.unit.length →
      runSequence (setupMode idx m) s =
        .next (failed (writtenAll s ((setupMessages idx m).take 4)) 4))

/-- R241: a `HANDSHAKE` of at most 8 modes with texts of at most 16 bytes writes the four identity messages and then, in index
order, the seven messages of mode `k` under index `k`: `4 + 7*m` messages, and changes nothing else but the response port. -/
def Obligations.HandshakeWritesFourPlusSevenPerMode : Prop :=
  ∀ (d : DeviceDesc) (s : State), d.modes.length ≤ 8 →
    (∀ m ∈ d.modes, m.name.length ≤ 16 ∧ m.unit.length ≤ 16) →
    runSequence (handshake d) s = .next (writtenAll s (handshakeMessages d)) ∧
      (handshakeMessages d).length = 4 + 7 * d.modes.length

/-- R241, R242: with more than 8 modes the sequence stops at `MODES` with `TooManyModes`; the `TYPE` and `SPEED` messages have
been written and nothing else. -/
def Obligations.HandshakeOfNineModesStopsAfterTwoMessages : Prop :=
  ∀ (d : DeviceDesc) (s : State), 8 < d.modes.length →
    runSequence (handshake d) s =
      .next (failed (written (written s (sealed [0x40, d.sensorType]))
        (sealed (0x52 :: le4 d.rate))) 3)

/-- R241: the first four operations of `HANDSHAKE`, for a list of modes of any length; bit `i` of the `viewFlags` operand of
`MODES` is the has-view flag of mode `i` for `i < min(m, 8)` and 0 above; a list of more than 255 modes presents the count
255. -/
def Obligations.HandshakePassesCountAndViewFlags : Prop :=
  ∀ d : DeviceDesc, ∃ c f : Byte,
    (handshake d).take 4 = [.type d.sensorType, .speed d.rate, .modes c f, .version d.hw d.sw] ∧
    (∀ i : Nat, f.getLsbD i =
      (decide (i < 8) && ((d.modes[i]?).map ModeDesc.hasView).getD false)) ∧
    c.toNat = if d.modes.length ≤ 255 then d.modes.length else 255

/-- R79, R242: a sequence that raises nothing is the same as presenting its operations one after another on the command port. -/
def Obligations.SequenceIsItsCommandsPresentedInOrder : Prop :=
  ∀ (is : List Instr) (s t : State), s.inputs = [] → runSequence is s = .next t → t.lastOk = true →
    Sys2Proof.core.run is.length { s with inputs := presented is } = .next t
end

