-- ==== Sys2Proof/Laws/Config.lean ====
section
/-! SUPPORT. The value of each parameter of the constant table, so that no proof unfolds the record. -/

namespace Sys2Proof

@[simp] theorem config_cbType : config.cbType = 0x40#8 := rfl
@[simp] theorem config_cbSpeed : config.cbSpeed = 0x52#8 := rfl
@[simp] theorem config_cbModes : config.cbModes = 0x49#8 := rfl
@[simp] theorem config_cbVersion : config.cbVersion = 0x5F#8 := rfl
@[simp] theorem config_cbInfo : config.cbInfo = 0x80#8 := rfl
@[simp] theorem config_cbFormat : config.cbFormat = 0x51#8 := rfl
@[simp] theorem config_cbData : config.cbData = 0xC0#8 := rfl
@[simp] theorem config_subName : config.subName = 0x00#8 := rfl
@[simp] theorem config_subRaw : config.subRaw = 0x01#8 := rfl
@[simp] theorem config_subPct : config.subPct = 0x02#8 := rfl
@[simp] theorem config_subSi : config.subSi = 0x03#8 := rfl
@[simp] theorem config_subUnits : config.subUnits = 0x04#8 := rfl
@[simp] theorem config_subMapping : config.subMapping = 0x05#8 := rfl
@[simp] theorem config_subFormat : config.subFormat = 0x80#8 := rfl
@[simp] theorem config_expMax : config.expMax = 4 := rfl
@[simp] theorem config_idxMax : config.idxMax = 7 := rfl
@[simp] theorem config_modesMax : config.modesMax = 8 := rfl
@[simp] theorem config_chkSeed : config.chkSeed = 0xFF#8 := rfl

end Sys2Proof
end

