-- ==== Sys2Proof/Laws/Operands.lean ====
section
/-! SUPPORT. What the operand functions compute: byte counts, the two logarithms by their bounds, the length class of
scalars, arrays and texts. -/

namespace Sys2Proof.Machine

/-! ### Bytes of a word -/

@[simp] theorem leBytes_length (n : Nat) (v : Word) : (leBytes n v).length = n := by
  simp [leBytes]

theorem leBytes_one (v : Word) : leBytes 1 v = [v.extractLsb' 0 8] := rfl

theorem leBytes_two (v : Word) : leBytes 2 v = [v.extractLsb' 0 8, v.extractLsb' 8 8] := rfl

theorem leBytes_four (v : Word) :
    leBytes 4 v =
      [v.extractLsb' 0 8, v.extractLsb' 8 8, v.extractLsb' 16 8, v.extractLsb' 24 8] := rfl

@[simp] theorem beBytes4_length (v : Word) : (beBytes4 v).length = 4 := rfl

/-! ### Logarithms -/

/-- `Flog2(n)` is the greatest `k` with `2^k ≤ n`. -/
theorem le_flog2_iff {n k : Nat} (hn : n ≠ 0) : k ≤ flog2 n ↔ 2 ^ k ≤ n := Nat.le_log2 hn

theorem two_pow_flog2_le {n : Nat} (hn : n ≠ 0) : 2 ^ flog2 n ≤ n := Nat.log2_self_le hn

theorem lt_two_pow_flog2 (n : Nat) : n < 2 ^ (flog2 n + 1) := Nat.lt_log2_self

theorem flog2_two_pow (k : Nat) : flog2 (2 ^ k) = k := Nat.log2_two_pow

/-- `Clog2(n)` is the least `k` with `n ≤ 2^k`. -/
theorem clog2_le_iff {n k : Nat} : clog2 n ≤ k ↔ n ≤ 2 ^ k := by
  unfold clog2
  split
  · rename_i h
    have : 1 ≤ 2 ^ k := Nat.one_le_two_pow
    omega
  · rename_i h
    have hlt := Nat.log2_lt (n := n - 1) (k := k) (by omega)
    omega

theorem le_two_pow_clog2 (n : Nat) : n ≤ 2 ^ clog2 n := clog2_le_iff.mp le_rfl

/-! ### Widths -/

theorem widthTable_eq_two_pow (ty : NumericType) : widthTable ty = 2 ^ flog2 (widthTable ty) := by
  cases ty <;> rfl

theorem flog2_widthTable_le (ty : NumericType) : flog2 (widthTable ty) ≤ 2 := by
  cases ty <;> decide

theorem widthTable_pos (ty : NumericType) : 0 < widthTable ty := by cases ty <;> decide

@[simp] theorem width_some (ty : NumericType) : width (some ty) = .ok (widthTable ty) := rfl
@[simp] theorem width_none : width none = .error .invalidType := rfl

/-! ### Length classes -/

/-- The validator by its meaning (R139). -/
@[simp] theorem lcValid_iff {exp n : Nat} : lcValid exp n = true ↔ exp ≤ 4 ∧ n = 2 ^ exp := by
  rw [lcValid, Bool.and_eq_true, decide_eq_true_iff, decide_eq_true_iff, config_expMax]

theorem lcArray_le (w n : Nat) : lcArray w n ≤ 4 := Nat.min_le_right _ _

theorem two_pow_lcArray_le {w n : Nat} (h : w * n ≠ 0) : 2 ^ lcArray w n ≤ w * n :=
  le_trans (Nat.pow_le_pow_right (by decide) (Nat.min_le_left _ _)) (two_pow_flog2_le h)

/-- Below the cap, the array class is the whole rounded-down logarithm. -/
theorem lcArray_eq_four_or_lt (w n : Nat) :
    lcArray w n = 4 ∨ w * n < 2 ^ (lcArray w n + 1) := by
  rcases Nat.lt_or_ge (flog2 (w * n)) 4 with h | h
  · right
    rw [show lcArray w n = flog2 (w * n) from Nat.min_eq_left (Nat.le_of_lt h)]
    exact lt_two_pow_flog2 _
  · exact .inl (Nat.min_eq_right h)

/-- An element width divides the array's class (R134, R141 b). -/
theorem widthTable_dvd_two_pow_lcArray (ty : NumericType) {n : Nat} (hn : n ≠ 0) :
    widthTable ty ∣ 2 ^ lcArray (widthTable ty) n := by
  have hpos := widthTable_pos ty
  have hle : widthTable ty ≤ widthTable ty * n := Nat.le_mul_of_pos_right _ (Nat.pos_of_ne_zero hn)
  have h1 : flog2 (widthTable ty) ≤ flog2 (widthTable ty * n) := by
    rw [le_flog2_iff (by omega), ← widthTable_eq_two_pow]
    exact hle
  have h2 : flog2 (widthTable ty) ≤ lcArray (widthTable ty) n :=
    Nat.le_min.mpr ⟨h1, le_trans (flog2_widthTable_le ty) (by decide)⟩
  conv_lhs => rw [widthTable_eq_two_pow ty]
  exact Nat.pow_dvd_pow 2 h2

/-- The kept elements fill the class exactly (R141 b). -/
theorem keep_mul_width (ty : NumericType) {n : Nat} (hn : n ≠ 0) :
    keep (widthTable ty) n * widthTable ty = 2 ^ lcArray (widthTable ty) n := by
  unfold keep
  split
  · exact Nat.div_mul_cancel (widthTable_dvd_two_pow_lcArray ty hn)
  · rename_i h
    have := two_pow_lcArray_le (w := widthTable ty) (n := n)
      (Nat.mul_ne_zero (widthTable_pos ty).ne' hn)
    rw [Nat.mul_comm]
    omega

theorem keep_le (ty : NumericType) {n : Nat} (hn : n ≠ 0) : keep (widthTable ty) n ≤ n := by
  have h1 := keep_mul_width ty hn
  have h2 := two_pow_lcArray_le (w := widthTable ty) (n := n)
    (Nat.mul_ne_zero (widthTable_pos ty).ne' hn)
  exact Nat.le_of_mul_le_mul_left (by rw [Nat.mul_comm, h1]; exact h2) (widthTable_pos ty)

/-- The padded text has the length of its class (R137). -/
@[simp] theorem pad_length (s : Bytes) : (pad s).length = 2 ^ lcText s.length := by
  have := le_two_pow_clog2 s.length
  simp [pad, zeros, lcText]
  omega

/-- A text is presentable exactly up to 16 bytes (R141 d). -/
theorem lcText_le_four_iff (n : Nat) : lcText n ≤ 4 ↔ n ≤ 16 := clog2_le_iff

end Sys2Proof.Machine
end

