-- ==== Sys2Proof/Laws/State.lean ====
section
/-! SUPPORT. One lemma per field per state update, and the errors' codes. -/

namespace Sys2Proof.Machine

variable (s : State) (m : Bytes) (r : Option Result) (e : FramerError) (rest : List HostInput)

@[simp] theorem sinkWrite_sink : (s.sinkWrite m).sink = s.sink ++ [m] := rfl
@[simp] theorem sinkWrite_fault : (s.sinkWrite m).fault = s.fault := rfl
@[simp] theorem sinkWrite_response : (s.sinkWrite m).response = s.response := rfl
@[simp] theorem sinkWrite_inputs : (s.sinkWrite m).inputs = s.inputs := rfl

@[simp] theorem respond_sink : (s.respond r).sink = s.sink := rfl
@[simp] theorem respond_fault : (s.respond r).fault = s.fault := rfl
@[simp] theorem respond_response : (s.respond r).response = some ⟨statusOk, r⟩ := rfl
@[simp] theorem respond_inputs : (s.respond r).inputs = s.inputs := rfl

@[simp] theorem raise_sink : (s.raise e).sink = s.sink := rfl
@[simp] theorem raise_fault : (s.raise e).fault = recordError s.fault (errorCode e) := rfl
@[simp] theorem raise_response : (s.raise e).response = some ⟨errorCode e, none⟩ := rfl
@[simp] theorem raise_inputs : (s.raise e).inputs = s.inputs := rfl

@[simp] theorem resetWith_sink : (State.resetWith rest).sink = [] := rfl
@[simp] theorem resetWith_fault : (State.resetWith rest).fault = 0#3 := rfl
@[simp] theorem resetWith_response : (State.resetWith rest).response = none := rfl
@[simp] theorem resetWith_inputs : (State.resetWith rest).inputs = rest := rfl

@[simp] theorem withFetchWord_sink (n w : Nat) : (s.withFetchWord n w).sink = s.sink := rfl
@[simp] theorem withFetchWord_fault (n w : Nat) : (s.withFetchWord n w).fault = s.fault := rfl
@[simp] theorem withFetchWord_response (n w : Nat) :
    (s.withFetchWord n w).response = s.response := rfl
@[simp] theorem withFetchWord_inputs (n w : Nat) :
    (s.withFetchWord n w).inputs = .command (commandOfTableWord n w) :: s.inputs := rfl

/-- No error has the status of success. -/
theorem errorCode_ne_zero : errorCode e ≠ 0#3 := by cases e <;> decide

/-- Every error code is one of 1..4 (R250). -/
theorem errorCode_le : (errorCode e).toNat ≤ 4 := by cases e <;> decide

/-- Different errors have different codes (R250). -/
theorem errorCode_injective {e e' : FramerError} (h : errorCode e = errorCode e') : e = e' := by
  cases e <;> cases e' <;> first | rfl | exact absurd h (by decide)

/-- A recorded error is not overwritten (R257). -/
@[simp] theorem recordError_of_ne {f c : BitVec 3} (h : f ≠ 0#3) : recordError f c = f := if_neg h

/-- The first error is recorded (R257). -/
@[simp] theorem recordError_zero (c : BitVec 3) : recordError 0#3 c = c := if_pos rfl

end Sys2Proof.Machine
end

