-- ==== Sys2Proof/Laws/Ops.lean ====
section
/-! SUPPORT. What the shared operations do: the checksum, the framer by its cases, and the two shapes of an
operation. -/

namespace Sys2Proof.Machine

/-! ### Checksum -/

theorem xorAll_eq_foldl (s : Bytes) (a : Byte) : s.foldl (· ^^^ ·) a = a ^^^ xorAll s := by
  induction s generalizing a with
  | nil => simp [xorAll]
  | cons x s ih => rw [List.foldl_cons, ih]; simp [xorAll, BitVec.xor_assoc]

@[simp] theorem xorAll_append (s t : Bytes) : xorAll (s ++ t) = xorAll s ^^^ xorAll t := by
  induction s with
  | nil => simp [xorAll]
  | cons x s ih =>
    simp only [xorAll, List.cons_append, List.foldr_cons] at ih ⊢
    rw [ih, BitVec.xor_assoc]

@[simp] theorem chk_length (b : Bytes) : (chk b).length = b.length + 1 := by simp [chk]

/-- The receiver's check (R122). -/
theorem xorAll_chk (b : Bytes) : xorAll (chk b) = 0xFF := by
  rw [chk, xorAll_append]
  simp [xorAll]

/-! ### Framing -/

theorem hdr_badIndex {cb idx : Byte} {exp : Nat} (hi : 7 < idx.toNat) :
    hdr cb exp idx = .error .fieldIndexOutOfRange := by
  rw [hdr, if_pos (by simpa using hi)]

theorem hdr_badExp {cb idx : Byte} {exp : Nat} (hi : idx.toNat ≤ 7) (he : 4 < exp) :
    hdr cb exp idx = .error .lengthClassInvalid := by
  rw [hdr, if_neg (by simpa using hi), if_pos (by simpa using he)]

theorem hdr_ok {cb idx : Byte} {exp : Nat} (hi : idx.toNat ≤ 7) (he : exp ≤ 4) :
    hdr cb exp idx = .ok (headerByte cb exp idx) := by
  rw [hdr, if_neg (by simpa using hi), if_neg (by simpa using he)]

/-- Everything `Frame` can answer (R152). -/
theorem frame_cases (cb : Byte) (exp : Nat) (idx : Byte) (sub : Option Byte) (data : Bytes) :
    (7 < idx.toNat ∧ frame cb exp idx sub data = .error .fieldIndexOutOfRange) ∨
    (idx.toNat ≤ 7 ∧ ¬(exp ≤ 4 ∧ data.length = 2 ^ exp) ∧
      frame cb exp idx sub data = .error .lengthClassInvalid) ∨
    (idx.toNat ≤ 7 ∧ exp ≤ 4 ∧ data.length = 2 ^ exp ∧
      frame cb exp idx sub data = .ok (chk ([headerByte cb exp idx] ++ sub.toList ++ data))) := by
  unfold frame
  by_cases h : idx.toNat > config.idxMax
  · exact .inl ⟨h, if_pos h⟩
  · by_cases hv : lcValid exp data.length = true
    · have := lcValid_iff.mp hv
      exact .inr (.inr ⟨Nat.le_of_not_gt h, this.1, this.2, by rw [if_neg h, if_pos hv]⟩)
    · exact .inr (.inl ⟨Nat.le_of_not_gt h, fun c => hv (lcValid_iff.mpr c),
        by rw [if_neg h, if_neg hv]⟩)

theorem frame_ok {cb : Byte} {exp : Nat} {idx : Byte} {sub : Option Byte} {data : Bytes}
    (hi : idx.toNat ≤ 7) (he : exp ≤ 4) (hl : data.length = 2 ^ exp) :
    frame cb exp idx sub data = .ok (chk ([headerByte cb exp idx] ++ sub.toList ++ data)) := by
  unfold frame
  rw [if_neg (by simpa using hi), if_pos (lcValid_iff.mpr ⟨he, hl⟩)]

theorem frame_badIndex {cb : Byte} {exp : Nat} {idx : Byte} {sub : Option Byte} {data : Bytes}
    (hi : 7 < idx.toNat) : frame cb exp idx sub data = .error .fieldIndexOutOfRange := by
  unfold frame
  rw [if_pos (by simpa using hi)]

theorem frame_badLength {cb : Byte} {exp : Nat} {idx : Byte} {sub : Option Byte} {data : Bytes}
    (hi : idx.toNat ≤ 7) (h : ¬(exp ≤ 4 ∧ data.length = 2 ^ exp)) :
    frame cb exp idx sub data = .error .lengthClassInvalid := by
  unfold frame
  rw [if_neg (by simpa using hi), if_neg (fun c => h (lcValid_iff.mp c))]

/-- A body of `2^exp` data bytes with a header and at most one sub-id byte becomes a legal message. -/
theorem legalMessage_chk {b : Bytes} (h : b.length + 1 ∈ messageLengths) : legalMessage (chk b) := by
  refine ⟨by rwa [chk_length], ?_⟩
  rw [xorAll_eq_foldl, xorAll_chk]
  decide

/-- Whatever `Frame` answers is a legal message (R47, R122). -/
theorem legalMessage_frame {cb : Byte} {exp : Nat} {idx : Byte} {sub : Option Byte} {data m : Bytes}
    (h : frame cb exp idx sub data = .ok m) : legalMessage m := by
  obtain ⟨-, hf⟩ | ⟨-, -, hf⟩ | ⟨-, he, hl, hf⟩ := frame_cases cb exp idx sub data
  · rw [hf] at h; cases h
  · rw [hf] at h; cases h
  · rw [hf] at h
    cases h
    apply legalMessage_chk
    rcases sub with - | x <;>
      interval_cases exp <;> simp [hl, messageLengths]

/-! ### The two shapes of an operation -/

@[simp] theorem query_ok (v : Result) (s : State) :
    query (.ok v) s = .next (s.respond (some v)) := rfl
@[simp] theorem query_error (e : FramerError) (s : State) : query (.error e) s = .next (s.raise e) := rfl
@[simp] theorem emit_ok (m : Bytes) (s : State) :
    emit (.ok m) s = .next ((s.sinkWrite m).respond none) := rfl
@[simp] theorem emit_error (e : FramerError) (s : State) : emit (.error e) s = .next (s.raise e) := rfl

/-- Everything a query can do. -/
theorem query_cases {r : Except FramerError Result} {s t : State} (h : query r s = .next t) :
    (∃ v, r = .ok v ∧ t = s.respond (some v)) ∨ (∃ e, r = .error e ∧ t = s.raise e) := by
  rcases r with e | v
  · exact .inr ⟨e, rfl, by simpa using h.symm⟩
  · exact .inl ⟨v, rfl, by simpa using h.symm⟩

/-- Everything a message operation can do. -/
theorem emit_cases {r : Except FramerError Bytes} {s t : State} (h : emit r s = .next t) :
    (∃ m, r = .ok m ∧ t = (s.sinkWrite m).respond none) ∨ (∃ e, r = .error e ∧ t = s.raise e) := by
  rcases r with e | m
  · exact .inr ⟨e, rfl, by simpa using h.symm⟩
  · exact .inl ⟨m, rfl, by simpa using h.symm⟩

/-! ### The invariant under the shared operations -/

theorem inv_respond {s : State} (h : s.Inv) (v : Result) : (s.respond (some v)).Inv := by
  obtain ⟨h1, h2, -, -⟩ := h
  exact ⟨h1, h2, by simp [statusOk, legalResponse], by simp [statusOk]⟩

theorem inv_write {s : State} (h : s.Inv) {m : Bytes} (hm : legalMessage m) :
    ((s.sinkWrite m).respond none).Inv := by
  obtain ⟨h1, h2, -, -⟩ := h
  refine ⟨?_, h2, by simp [statusOk, legalResponse], by simp [statusOk]⟩
  intro x hx
  rcases List.mem_append.mp hx with hx | hx
  · exact h1 x hx
  · rwa [List.mem_singleton.mp hx]

theorem inv_raise {s : State} (h : s.Inv) (e : FramerError) : (s.raise e).Inv := by
  obtain ⟨h1, h2, -, -⟩ := h
  refine ⟨h1, ?_, ?_, ?_⟩
  · by_cases hf : s.fault = 0#3
    · simpa [hf] using errorCode_le e
    · simpa [hf] using h2
  · intro r hr
    have : r = ⟨errorCode e, none⟩ := by simpa using hr.symm
    subst this
    exact ⟨errorCode_le e, by simp⟩
  · intro r hr _
    by_cases hf : s.fault = 0#3
    · simpa [hf] using errorCode_ne_zero e
    · simp [hf]

end Sys2Proof.Machine
end

