-- ==== Sys2Proof/Laws/DataTelegram.lean ====
section
/-! SUPPORT. The data bytes of an array message fill its length class. -/

namespace Sys2Proof.Machine

@[simp] theorem flatMap_leBytes_length (w : Nat) (vs : List Word) :
    (vs.flatMap (leBytes w)).length = vs.length * w := by
  induction vs with
  | nil => simp
  | cons x xs ih => simp [ih, Nat.add_mul, Nat.add_comm]

/-- R141 (b): the data of an array message is exactly `2^e` bytes. -/
theorem arrayData_length (ty : NumericType) {vs : List Word} (h : vs.length ≠ 0) :
    (arrayData (widthTable ty) vs).length = 2 ^ lcArray (widthTable ty) vs.length := by
  rw [arrayData, flatMap_leBytes_length, List.length_take, Nat.min_eq_left (keep_le ty h),
    keep_mul_width ty h]

end Sys2Proof.Machine
end

