-- ==== Sys2Proof/Laws/Exec.lean ====
section
/-! SUPPORT. What an operation can do, said once: it is a query or a message operation whose answer does not
depend on the state, and every message is legal. -/

namespace Sys2Proof.Machine

/-- A type operand is selector 7 or names a width. -/
theorem width_cases (t : TypeSel) :
    (t = none ∧ width t = .error .invalidType) ∨ ∃ ty, t = some ty ∧ width t = .ok (widthTable ty) := by
  rcases t with - | ty
  · exact .inl ⟨rfl, rfl⟩
  · exact .inr ⟨ty, rfl, rfl⟩

/-- The operations of ordinals 0..7 are queries whose answer is a function of their operands (R4, R74). -/
theorem exec_query (i : Instr) (h : (encode i).opsel.toNat ≤ 7) : ∃ r, ∀ s, exec i s = query r s := by
  cases i with
  | lcarray t n =>
    rcases width_cases t with ⟨-, hw⟩ | ⟨ty, -, hw⟩
    · exact ⟨_, fun s => by simp only [exec, execLcarray, hw]; rfl⟩
    · by_cases hn : n = 0
      · exact ⟨_, fun s => by simp only [exec, execLcarray, hw, if_pos hn]; rfl⟩
      · exact ⟨_, fun s => by simp only [exec, execLcarray, hw, if_neg hn]; rfl⟩
  | chkapp _ => exact ⟨.ok _, fun _ => rfl⟩
  | lctext _ => exact ⟨.ok _, fun _ => rfl⟩
  | lcvalid _ _ => exact ⟨.ok _, fun _ => rfl⟩
  | widthof _ | nenc _ _ | hdrpack _ _ _ | lcscalar _ => exact ⟨_, fun _ => rfl⟩
  | frame _ _ _ _ _ | type _ | speed _ | modes _ _ | version _ _ | name _ _ | raw _ _ _ | pct _ _ _
  | si _ _ _ | units _ _ | mapping _ _ _ | format _ _ _ _ _ | datas _ _ _ | dataa _ _ _ =>
    exact absurd h (by simp [encode])

/-- The operations of ordinals 8..21 are message operations whose message is a function of their operands,
and legal (R4, R47, R74, R122). -/
theorem exec_emit (i : Instr) (h : 8 ≤ (encode i).opsel.toNat) :
    ∃ r, (∀ m, r = .ok m → legalMessage m) ∧ ∀ s, exec i s = emit r s := by
  cases i with
  | type _ =>
    exact ⟨.ok _, fun _ hm => by cases hm; exact legalMessage_chk (by simp [messageLengths]),
      fun _ => rfl⟩
  | speed _ =>
    exact ⟨.ok _, fun _ hm => by cases hm; exact legalMessage_chk (by simp [messageLengths]),
      fun _ => rfl⟩
  | version _ _ =>
    exact ⟨.ok _, fun _ hm => by cases hm; exact legalMessage_chk (by simp [messageLengths]),
      fun _ => rfl⟩
  | modes n f =>
    by_cases hn : n.toNat > config.modesMax
    · exact ⟨.error .tooManyModes, nofun, fun _ => by
        simp only [exec, execModes, if_pos hn]⟩
    · have h : ∀ s, exec (.modes n f) s = emit (.ok (chk [config.cbModes, countMinusOne n.toNat,
          countMinusOne (viewCount n f)])) s := fun _ => by simp only [exec, execModes, if_neg hn]
      exact ⟨_, fun _ hm => by cases hm; exact legalMessage_chk (by simp [messageLengths]), h⟩
  | datas t idx v =>
    rcases width_cases t with ⟨-, hw⟩ | ⟨ty, -, hw⟩
    · exact ⟨.error .invalidType, nofun, fun _ => by simp only [exec, execDatas, hw]⟩
    · exact ⟨_, fun _ hm => legalMessage_frame hm, fun _ => by simp only [exec, execDatas, hw]; rfl⟩
  | dataa t idx vs =>
    rcases width_cases t with ⟨-, hw⟩ | ⟨ty, -, hw⟩
    · exact ⟨.error .invalidType, nofun, fun _ => by simp only [exec, execDataa, hw]⟩
    · by_cases hi : idx.toNat > config.idxMax
      · exact ⟨.error .fieldIndexOutOfRange, nofun, fun _ => by
          simp only [exec, execDataa, hw, if_pos hi]⟩
      · by_cases hn : vs.length = 0
        · exact ⟨.error .lengthClassInvalid, nofun, fun _ => by
            simp only [exec, execDataa, hw, if_neg hi, if_pos hn]⟩
        · exact ⟨_, fun _ hm => legalMessage_frame hm, fun _ => by
            simp only [exec, execDataa, hw, if_neg hi, if_neg hn]; rfl⟩
  | frame _ _ _ _ _ | name _ _ | raw _ _ _ | pct _ _ _ | si _ _ _ | units _ _ | mapping _ _ _
  | format _ _ _ _ _ => exact ⟨_, fun _ hm => legalMessage_frame hm, fun _ => rfl⟩
  | widthof _ | nenc _ _ | chkapp _ | hdrpack _ _ _ | lcscalar _ | lcarray _ _ | lctext _
  | lcvalid _ _ => exact absurd h (by simp [encode])

/-- Each operation is one query or one message operation, with an answer that is a function of its operands
alone (R4, R20). -/
theorem exec_shape (i : Instr) :
    ((encode i).opsel.toNat ≤ 7 ∧ ∃ r, ∀ s, exec i s = query r s) ∨
    (8 ≤ (encode i).opsel.toNat ∧
      ∃ r, (∀ m, r = .ok m → legalMessage m) ∧ ∀ s, exec i s = emit r s) := by
  rcases Nat.lt_or_ge 7 (encode i).opsel.toNat with h | h
  · exact .inr ⟨h, exec_emit i h⟩
  · exact .inl ⟨h, exec_query i h⟩

/-- Everything an operation can do to a state: answer, write one legal message, or raise. -/
theorem exec_cases {i : Instr} {s t : State} (h : exec i s = .next t) :
    (∃ v, (encode i).opsel.toNat ≤ 7 ∧ t = s.respond (some v)) ∨
    (∃ m, 8 ≤ (encode i).opsel.toNat ∧ legalMessage m ∧ t = (s.sinkWrite m).respond none) ∨
    (∃ e, t = s.raise e) := by
  rcases exec_shape i with ⟨ho, r, hr⟩ | ⟨ho, r, hl, hr⟩
  · rw [hr] at h
    rcases query_cases h with ⟨v, -, ht⟩ | ⟨e, -, ht⟩
    · exact .inl ⟨v, ho, ht⟩
    · exact .inr (.inr ⟨e, ht⟩)
  · rw [hr] at h
    rcases emit_cases h with ⟨m, hm, ht⟩ | ⟨e, -, ht⟩
    · exact .inr (.inl ⟨m, ho, hl m hm, ht⟩)
    · exact .inr (.inr ⟨e, ht⟩)

/-- No operation touches what the host has yet to present. -/
theorem exec_inputs {i : Instr} {s t : State} (h : exec i s = .next t) : t.inputs = s.inputs := by
  rcases exec_cases h with ⟨v, -, rfl⟩ | ⟨m, -, -, rfl⟩ | ⟨e, rfl⟩ <;> rfl

end Sys2Proof.Machine
end

