-- ==== Sys2Proof/Laws/PerInstr.lean ====
section
/-! SUPPORT. Statements made for every constructor of `Instr`, one lemma each. -/

namespace Sys2Proof.Laws.SelectorLegal

/-- The record of an operation never carries a reserved ordinal (R74, R75). -/
def Statement (i : Instr) : Prop := (encode i).opsel.toNat ≤ 21

theorem widthof (t) : Statement (.widthof t) := by simp [Statement, encode]
theorem nenc (t v) : Statement (.nenc t v) := by simp [Statement, encode]
theorem chkapp (b) : Statement (.chkapp b) := by simp [Statement, encode]
theorem hdrpack (cb e i) : Statement (.hdrpack cb e i) := by simp [Statement, encode]
theorem lcscalar (t) : Statement (.lcscalar t) := by simp [Statement, encode]
theorem lcarray (t n) : Statement (.lcarray t n) := by simp [Statement, encode]
theorem lctext (n) : Statement (.lctext n) := by simp [Statement, encode]
theorem lcvalid (e n) : Statement (.lcvalid e n) := by simp [Statement, encode]
theorem frame (cb e i s b) : Statement (.frame cb e i s b) := by simp [Statement, encode]
theorem type (x) : Statement (.type x) := by simp [Statement, encode]
theorem speed (r) : Statement (.speed r) := by simp [Statement, encode]
theorem modes (n f) : Statement (.modes n f) := by simp [Statement, encode]
theorem version (h s) : Statement (.version h s) := by simp [Statement, encode]
theorem name (i b) : Statement (.name i b) := by simp [Statement, encode]
theorem raw (i l h) : Statement (.raw i l h) := by simp [Statement, encode]
theorem pct (i l h) : Statement (.pct i l h) := by simp [Statement, encode]
theorem si (i l h) : Statement (.si i l h) := by simp [Statement, encode]
theorem units (i b) : Statement (.units i b) := by simp [Statement, encode]
theorem mapping (i a b) : Statement (.mapping i a b) := by simp [Statement, encode]
theorem format (i a b c d) : Statement (.format i a b c d) := by simp [Statement, encode]
theorem datas (t i v) : Statement (.datas t i v) := by simp [Statement, encode]
theorem dataa (t i vs) : Statement (.dataa t i vs) := by simp [Statement, encode]

end Sys2Proof.Laws.SelectorLegal
end

