-- ==== Sys2Proof/Laws/Step.lean ====
section
/-! SUPPORT. What a step can do, said once. -/

namespace Sys2Proof.Machine

theorem step_idle {s : State} (h : s.inputs = []) : step s = .next s := by simp [step, h]

theorem step_reset {s : State} {rest : List HostInput} (h : s.inputs = .reset :: rest) :
    step s = .next (State.resetWith rest) := by simp [step, h]

theorem step_command {s : State} {c : Command} {rest : List HostInput} {i : Instr}
    (h : s.inputs = .command c :: rest) (hd : decode c = .ok i) :
    step s = exec i { s with inputs := rest } := by simp [step, h, hd]

/-- Everything a step that goes on can have done: nothing, a reset, or the decoded operation. -/
theorem step_cases {s t : State} (h : step s = .next t) :
    (s.inputs = [] ∧ t = s) ∨
    (∃ rest, s.inputs = .reset :: rest ∧ t = State.resetWith rest) ∨
    (∃ c rest i, s.inputs = .command c :: rest ∧ decode c = .ok i ∧
      exec i { s with inputs := rest } = .next t) := by
  rcases hs : s.inputs with - | ⟨c | -, rest⟩
  · rw [step_idle hs] at h
    exact .inl ⟨rfl, by cases h; rfl⟩
  · cases hd : decode c with
    | ok i => exact .inr (.inr ⟨c, rest, i, rfl, hd, by rw [← step_command hs hd]; exact h⟩)
    | error e => cases e; simp [step, hs, hd] at h
  · rw [step_reset hs] at h
    exact .inr (.inl ⟨rest, rfl, by cases h; rfl⟩)

/-- A run of `k + 1` steps that goes on is a step and then a run of `k`. -/
theorem run_succ {k : Nat} {s t : State} (h : Sys2Proof.core.run (k + 1) s = .next t) :
    ∃ u, step s = .next u ∧ Sys2Proof.core.run k u = .next t := by
  simp only [Host.Core.run] at h
  split at h
  · rename_i u hs
    exact ⟨u, hs, h⟩
  · cases h
  · cases h

end Sys2Proof.Machine
end

