-- ==== Sys2Proof/Tests/Slice0.lean ====
section
/-! SUPPORT. The model's own tests. Expected values are those of spec/95_test_vectors.md and the tables of
spec/30_encoding.md, never the model's answers. The first part tests well-formedness, the second decoding, the
third each operation at the values where its cases meet (a value that is no vector of that file is worked by hand
from the rule), and the last gives, for each statement with
hypotheses, concrete values that meet all of them. -/

namespace Sys2Proof.Tests

open Sys2Proof.Machine Sys2Proof.Claims

/-! ### Helpers -/

/-- The state an outcome goes on with. -/
def nextOf (o : StepOutcome) : Option State :=
  match o with
  | .next t => some t
  | .fault _ => none
  | .refused _ => none

/-- From reset, the operation answers this result and leaves `sink` and `fault` as they were. -/
def answers (i : Instr) (r : Result) : Bool :=
  decide (nextOf (exec i State.reset) = some (answered State.reset r))

/-- From reset, the operation writes exactly this message. -/
def sends (i : Instr) (m : Bytes) : Bool :=
  decide (nextOf (exec i State.reset) = some (written State.reset m))

/-- From reset, the operation writes nothing, and its status and `fault` are this code. -/
def raises (i : Instr) (c : BitVec 3) : Bool :=
  decide (nextOf (exec i State.reset) =
    some { sink := [], fault := c, response := some { status := c, result := none }, inputs := [] })

/-- The reset state with these inputs presented. -/
def presenting (xs : List HostInput) : State := { State.reset with inputs := xs }

/-- The text of `NAME 7` in Part 2: 16 bytes, the longest that is legal. -/
def text16 : Bytes :=
  [0x41, 0x42, 0x43, 0x44, 0x45, 0x46, 0x47, 0x48, 0x49, 0x4A, 0x4B, 0x4C, 0x4D, 0x4E, 0x4F, 0x50]

/-- One byte more. -/
def text17 : Bytes := text16 ++ [0x51]

/-! ### Well-formedness: each check refuses an ill-formed operation and passes the longest legal one -/

theorem test_wf_chkapp : Instr.wellFormed .smallest (.chkapp (List.replicate 19 0)) = false ∧
    Instr.wellFormed .smallest (.chkapp (List.replicate 18 0)) = true := by decide

theorem test_wf_frame :
    Instr.wellFormed .smallest (.frame 0xC0 4 0 none (List.replicate 19 0)) = false ∧
    Instr.wellFormed .smallest (.frame 0xC0 4 0 none (List.replicate 18 0)) = true := by decide

theorem test_wf_name : Instr.wellFormed .smallest (.name 0 (List.replicate 19 0x41)) = false ∧
    Instr.wellFormed .smallest (.name 0 (List.replicate 18 0x41)) = true := by decide

theorem test_wf_units : Instr.wellFormed .smallest (.units 0 (List.replicate 19 0x41)) = false ∧
    Instr.wellFormed .smallest (.units 0 (List.replicate 18 0x41)) = true := by decide

theorem test_wf_dataa :
    Instr.wellFormed .smallest (.dataa (some .int8) 0 (List.replicate 17 0)) = false ∧
    Instr.wellFormed .smallest (.dataa (some .int8) 0 (List.replicate 16 0)) = true := by decide

/-! ### Decoding: the ordinals of R74 written out as table words, the selectors of R73, the fields of R72 -/

theorem test_decode_queries :
    decodeTableWord 8 0b00000 = some (.widthof (some .int8)) ∧
    decodeTableWord 8 0b00001 = some (.nenc (some .int8) 0) ∧
    decodeTableWord 8 0b00010 = some (.chkapp []) ∧
    decodeTableWord 8 0b00011 = some (.hdrpack 0 0 0) ∧
    decodeTableWord 8 0b00100 = some (.lcscalar (some .int8)) ∧
    decodeTableWord 8 0b00101 = some (.lcarray (some .int8) 0) ∧
    decodeTableWord 8 0b00110 = some (.lctext 0) ∧
    decodeTableWord 8 0b00111 = some (.lcvalid 0 0) := by decide

theorem test_decode_frame_and_handshake :
    decodeTableWord 8 0b01000 = some (.frame 0 0 0 none []) ∧
    decodeTableWord 8 0b01001 = some (.type 0) ∧
    decodeTableWord 8 0b01010 = some (.speed 0) ∧
    decodeTableWord 8 0b01011 = some (.modes 0 0) ∧
    decodeTableWord 8 0b01100 = some (.version 0 0) := by decide

theorem test_decode_descriptors_and_data :
    decodeTableWord 8 0b01101 = some (.name 0 []) ∧
    decodeTableWord 8 0b01110 = some (.raw 0 0 0) ∧
    decodeTableWord 8 0b01111 = some (.pct 0 0 0) ∧
    decodeTableWord 8 0b10000 = some (.si 0 0 0) ∧
    decodeTableWord 8 0b10001 = some (.units 0 []) ∧
    decodeTableWord 8 0b10010 = some (.mapping 0 0 0) ∧
    decodeTableWord 8 0b10011 = some (.format 0 0 0 0 0) ∧
    decodeTableWord 8 0b10100 = some (.datas (some .int8) 0 0) ∧
    decodeTableWord 8 0b10101 = some (.dataa (some .int8) 0 []) := by decide

theorem test_decode_reserved_ordinals :
    (List.range 10).all (fun k => (decodeTableWord 8 (22 + k)).isNone) = true := by decide

/-- A record in which every field has a value of its own, so that a swapped field shows. -/
def fullRecord (opsel : BitVec 5) (t : BitVec 3) : Command :=
  { opsel := opsel, t := t, cb := 0x11, exp := 0x12, idx := 0x13, sub := some 0x14, bytes := [0x15],
    v := 0x16, vs := [0x17, 0x18], n := 0x19, sensorType := 0x1A, rate := 0x1B, modeCount := 0x1C,
    viewFlags := 0x1D, hw := 0x1E, sw := 0x1F, min := 0x20, max := 0x21, mapIn := 0x22, mapOut := 0x23,
    sampleCount := 0x24, typeCode := 0x25, figures := 0x26, decimals := 0x27 }

theorem test_decode_fields_of_queries :
    (decode (fullRecord 1 0b110)).toOption = some (.nenc (some .float32) 0x16) ∧
    (decode (fullRecord 2 0)).toOption = some (.chkapp [0x15]) ∧
    (decode (fullRecord 3 0)).toOption = some (.hdrpack 0x11 0x12 0x13) ∧
    (decode (fullRecord 5 0b111)).toOption = some (.lcarray none 0x19) ∧
    (decode (fullRecord 7 0)).toOption = some (.lcvalid 0x12 0x19) := by decide

theorem test_decode_fields_of_messages :
    (decode (fullRecord 8 0)).toOption = some (.frame 0x11 0x12 0x13 (some 0x14) [0x15]) ∧
    (decode (fullRecord 11 0)).toOption = some (.modes 0x1C 0x1D) ∧
    (decode (fullRecord 12 0)).toOption = some (.version 0x1E 0x1F) ∧
    (decode (fullRecord 14 0)).toOption = some (.raw 0x13 0x20 0x21) ∧
    (decode (fullRecord 18 0)).toOption = some (.mapping 0x13 0x22 0x23) ∧
    (decode (fullRecord 19 0)).toOption = some (.format 0x13 0x24 0x25 0x26 0x27) ∧
    (decode (fullRecord 20 0b011)).toOption = some (.datas (some .uint16) 0x13 0x16) ∧
    (decode (fullRecord 21 0b100)).toOption = some (.dataa (some .int32) 0x13 [0x17, 0x18]) := by decide

/-- The selector codes of R73 in order. -/
theorem test_type_selectors :
    [0, 1, 2, 3, 4, 5, 6, 7].map typeOfSelector = [some .int8, some .uint8, some .int16, some .uint16,
      some .int32, some .uint32, some .float32, none] := by decide

/-- A table word placed by `withFetchWord` runs as the very next command: `TYPE 0` writes `40 00 BF`. -/
theorem test_withFetchWord_runs_next :
    nextOf (step (State.reset.withFetchWord 8 0b01001)) =
      some (written State.reset [0x40, 0x00, 0xBF]) := by decide

/-! ### Operations: vectors of 95_test_vectors.md, at the values where the cases of a rule meet -/

theorem test_widthof : answers (.widthof (some .int8)) (.number 1) = true ∧
    answers (.widthof (some .uint16)) (.number 2) = true ∧
    answers (.widthof (some .float32)) (.number 4) = true ∧
    raises (.widthof none) 1 = true := by decide

theorem test_nenc : answers (.nenc (some .int8) 0x1FF) (.bytes [0xFF]) = true ∧
    answers (.nenc (some .int16) (-1234)) (.bytes [0x2E, 0xFB]) = true ∧
    answers (.nenc (some .uint32) 0xDEADBEEF) (.bytes [0xEF, 0xBE, 0xAD, 0xDE]) = true ∧
    answers (.nenc (some .float32) 0x7FC00000) (.bytes [0x00, 0x00, 0xC0, 0x7F]) = true ∧
    raises (.nenc none 5) 1 = true := by decide

theorem test_chkapp : answers (.chkapp []) (.bytes [0xFF]) = true ∧
    answers (.chkapp [0x12, 0x34, 0x56]) (.bytes [0x12, 0x34, 0x56, 0x8F]) = true ∧
    answers (.chkapp [0xAA, 0xAA]) (.bytes [0xAA, 0xAA, 0xFF]) = true := by decide

theorem test_hdrpack : answers (.hdrpack 0xC0 1 2) (.byte 0xCA) = true ∧
    answers (.hdrpack 0x80 4 7) (.byte 0xA7) = true ∧
    answers (.hdrpack 0x51 2 3) (.byte 0x53) = true ∧
    answers (.hdrpack 0x51 2 2) (.byte 0x53) = true ∧
    answers (.hdrpack 0xFF 0 0) (.byte 0xFF) = true := by decide

theorem test_hdrpack_errors : raises (.hdrpack 0xC0 5 0) 4 = true ∧ raises (.hdrpack 0xC0 5 7) 4 = true ∧
    raises (.hdrpack 0xC0 0 8) 2 = true ∧ raises (.hdrpack 0xC0 5 9) 2 = true := by decide

theorem test_lcscalar : answers (.lcscalar (some .uint8)) (.number 0) = true ∧
    answers (.lcscalar (some .int16)) (.number 1) = true ∧
    answers (.lcscalar (some .float32)) (.number 2) = true ∧
    raises (.lcscalar none) 1 = true := by decide

theorem test_lcarray : answers (.lcarray (some .int8) 1) (.pair 0 1) = true ∧
    answers (.lcarray (some .int8) 3) (.pair 1 2) = true ∧
    answers (.lcarray (some .int8) 16) (.pair 4 16) = true ∧
    answers (.lcarray (some .int8) 17) (.pair 4 16) = true ∧
    answers (.lcarray (some .int16) 9) (.pair 4 8) = true ∧
    answers (.lcarray (some .uint32) 65535) (.pair 4 4) = true := by decide

theorem test_lcarray_errors : raises (.lcarray (some .int8) 0) 4 = true ∧
    raises (.lcarray none 0) 1 = true := by decide

theorem test_lctext : answers (.lctext 0) (.number 0) = true ∧ answers (.lctext 1) (.number 0) = true ∧
    answers (.lctext 2) (.number 1) = true ∧ answers (.lctext 3) (.number 2) = true ∧
    answers (.lctext 16) (.number 4) = true ∧ answers (.lctext 17) (.number 5) = true ∧
    answers (.lctext 65535) (.number 16) = true := by decide

theorem test_lcvalid : answers (.lcvalid 0 1) (.number 1) = true ∧
    answers (.lcvalid 4 16) (.number 1) = true ∧ answers (.lcvalid 5 32) (.number 0) = true ∧
    answers (.lcvalid 0 0) (.number 0) = true ∧ answers (.lcvalid 2 3) (.number 0) = true ∧
    answers (.lcvalid 255 1) (.number 0) = true := by decide

theorem test_frame : sends (.frame 0xC0 0 0 none [0x55]) [0xC0, 0x55, 0x6A] = true ∧
    sends (.frame 0x80 1 7 (some 0x05) [0x01, 0x02]) [0x8F, 0x05, 0x01, 0x02, 0x76] = true ∧
    sends (.frame 0x51 2 3 (some 0x80) [1, 1, 4, 0])
      [0x53, 0x80, 0x01, 0x01, 0x04, 0x00, 0x28] = true := by decide

theorem test_frame_errors : raises (.frame 0xC0 1 0 none [0x01]) 4 = true ∧
    raises (.frame 0xC0 5 7 none (List.replicate 32 0)) 4 = true ∧
    raises (.frame 0xC0 5 9 none [0x00]) 2 = true ∧
    raises (.frame 0xC0 0 8 none [0x00]) 2 = true := by decide

theorem test_type : sends (.type 35) [0x40, 0x23, 0x9C] = true ∧
    sends (.type 255) [0x40, 0xFF, 0x40] = true := by decide

theorem test_speed : sends (.speed 115200) [0x52, 0x00, 0xC2, 0x01, 0x00, 0x6E] = true ∧
    sends (.speed 2400) [0x52, 0x60, 0x09, 0x00, 0x00, 0xC4] = true := by decide

theorem test_modes : sends (.modes 3 0x05) [0x49, 0x02, 0x01, 0xB5] = true ∧
    sends (.modes 8 0xFF) [0x49, 0x07, 0x07, 0xB6] = true ∧
    sends (.modes 2 0xFC) [0x49, 0x01, 0xFF, 0x48] = true ∧
    sends (.modes 0 0x00) [0x49, 0xFF, 0xFF, 0xB6] = true := by decide

theorem test_modes_errors : raises (.modes 9 0xFF) 3 = true ∧ raises (.modes 255 0x00) 3 = true := by decide

theorem test_version : sends (.version 0x01020304 0xA0B0C0D0)
    [0x5F, 0x01, 0x02, 0x03, 0x04, 0xA0, 0xB0, 0xC0, 0xD0, 0xA4] = true := by decide

theorem test_name : sends (.name 0 []) [0x80, 0x00, 0x00, 0x7F] = true ∧
    sends (.name 1 [0x41, 0x42, 0x43]) [0x91, 0x00, 0x41, 0x42, 0x43, 0x00, 0x2E] = true ∧
    sends (.name 3 [0x4C, 0x49, 0x47, 0x48, 0x54])
      [0x9B, 0x00, 0x4C, 0x49, 0x47, 0x48, 0x54, 0x00, 0x00, 0x00, 0x3A] = true ∧
    sends (.name 7 text16) ([0xA7, 0x00] ++ text16 ++ [0x48]) = true := by decide

theorem test_name_errors : raises (.name 0 text17) 4 = true ∧ raises (.name 8 [0x41]) 2 = true ∧
    raises (.name 8 text17) 2 = true := by decide

theorem test_raw : sends (.raw 7 0xC2C80000 0x42C80000)
    [0x9F, 0x01, 0x00, 0x00, 0xC8, 0xC2, 0x00, 0x00, 0xC8, 0x42, 0xE1] = true ∧
    raises (.raw 8 0 0) 2 = true := by decide

theorem test_pct : sends (.pct 0 0 0x42C80000)
    [0x98, 0x02, 0x00, 0x00, 0x00, 0x00, 0x00, 0x00, 0xC8, 0x42, 0xEF] = true ∧
    raises (.pct 8 0 0) 2 = true := by decide

theorem test_si : sends (.si 1 0 0x447FC000)
    [0x99, 0x03, 0x00, 0x00, 0x00, 0x00, 0x00, 0xC0, 0x7F, 0x44, 0x9E] = true ∧
    raises (.si 8 0 0) 2 = true := by decide

theorem test_units : sends (.units 0 []) [0x80, 0x04, 0x00, 0x7B] = true ∧
    sends (.units 1 [0x64, 0x65, 0x67]) [0x91, 0x04, 0x64, 0x65, 0x67, 0x00, 0x0C] = true ∧
    raises (.units 0 text17) 4 = true ∧ raises (.units 8 text17) 2 = true := by decide

theorem test_mapping : sends (.mapping 5 0x91 0x10) [0x8D, 0x05, 0x91, 0x10, 0xF6] = true ∧
    raises (.mapping 8 0 0) 2 = true := by decide

theorem test_format : sends (.format 2 0x101 3 (-1) 0x1FF)
      [0x53, 0x80, 0x01, 0x03, 0xFF, 0xFF, 0x2E] = true ∧
    sends (.format 1 1 1 4 0) [0x51, 0x80, 0x01, 0x01, 0x04, 0x00, 0x2A] = true ∧
    sends (.format 7 1 1 4 0) [0x57, 0x80, 0x01, 0x01, 0x04, 0x00, 0x2C] = true ∧
    raises (.format 8 1 1 4 0) 2 = true := by decide

theorem test_datas : sends (.datas (some .int16) 2 (-1234)) [0xCA, 0x2E, 0xFB, 0xE0] = true ∧
    sends (.datas (some .uint8) 7 255) [0xC7, 0xFF, 0xC7] = true ∧
    sends (.datas (some .uint32) 5 0xDEADBEEF) [0xD5, 0xEF, 0xBE, 0xAD, 0xDE, 0x08] = true ∧
    sends (.datas (some .float32) 6 0x3FC00000) [0xD6, 0x00, 0x00, 0xC0, 0x3F, 0xD6] = true := by decide

theorem test_datas_errors : raises (.datas none 0 5) 1 = true ∧ raises (.datas (some .int8) 8 5) 2 = true ∧
    raises (.datas none 8 5) 1 = true := by decide

theorem test_dataa : sends (.dataa (some .int8) 0 [0x80]) [0xC0, 0x80, 0xBF] = true ∧
    sends (.dataa (some .int16) 1 [10, 20, 30]) [0xD1, 0x0A, 0x00, 0x14, 0x00, 0x30] = true ∧
    sends (.dataa (some .uint32) 7 [0xAABBCCDD, 0x11223344])
      [0xDF, 0xDD, 0xCC, 0xBB, 0xAA, 0x44, 0x33, 0x22, 0x11, 0x64] = true ∧
    sends (.dataa (some .float32) 3 [0x3F800000, 0x40000000, 0x40400000, 0x40800000, 0x40A00000])
      [0xE3, 0x00, 0x00, 0x80, 0x3F, 0x00, 0x00, 0x00, 0x40, 0x00, 0x00, 0x40, 0x40, 0x00, 0x00, 0x80,
        0x40, 0x23] = true := by decide

theorem test_dataa_errors : raises (.dataa (some .int8) 1 []) 4 = true ∧
    raises (.dataa (some .int8) 9 []) 2 = true ∧ raises (.dataa none 8 []) 1 = true := by decide

/-! ### Witnesses: values that meet all hypotheses of each statement that has any

The statements about one operation (`Hdrpack…`, `Name…`, `Dataa…` and the like) have their clauses witnessed, at
the values where the clauses meet, by the theorems of the section before this one (index 7 and 8, exponent 4
and 5, text of 16 and 17 bytes, 8 and 9 modes, a count of 0 and 1). The theorems below are named after the
other statements. -/

/-- A state whose log holds the message of `TYPE 35` and whose `fault` holds `TooManyModes`, with these
inputs: the state after step 2 of Part 2.8. -/
def afterError (xs : List HostInput) : State :=
  { sink := [[0x40, 0x23, 0x9C]], fault := 3, response := some { status := 3, result := none },
    inputs := xs }

/-- The commands of `TYPE 35`, `MODES 9, 0` and a reserved ordinal. -/
def cmdType : Command := { opsel := 0b01001, sensorType := 35 }
def cmdModes : Command := { opsel := 0b01011, modeCount := 9 }
def cmdReserved : Command := { opsel := 0b10110 }

theorem witness_ResetInputClearsSinkAndFault :
    (afterError [.reset, .command cmdType]).inputs = .reset :: [.command cmdType] ∧
    step (afterError [.reset, .command cmdType]) = .next (presenting [.command cmdType]) :=
  ⟨rfl, rfl⟩

theorem witness_StepKeepsLegalState : State.Inv (presenting [.command cmdType]) ∧
    step (presenting [.command cmdType]) = .next (written State.reset [0x40, 0x23, 0x9C]) :=
  ⟨by decide, rfl⟩

/-- Step 3 of Part 2.8, from a state that already holds an error. -/
theorem witness_StepKeepsLegalState_after_error :
    State.Inv (afterError [.command cmdModes]) ∧
    step (afterError [.command cmdModes]) = .next (afterError []) :=
  ⟨by decide, rfl⟩

theorem witness_SinkOnlyGrowsAlongRuns : noReset [.command cmdType, .command cmdModes] = true ∧
    Sys2Proof.core.run 2 (presenting [.command cmdType, .command cmdModes]) = .next (afterError []) :=
  ⟨by decide, rfl⟩

/-- The three parts: an operation that raises, a run from a nonzero `fault`, a reset. -/
theorem witness_FirstErrorIsKeptUntilReset :
    exec (.modes 9 0) State.reset = .next (failed State.reset 3) ∧
    (afterError [.command cmdType]).fault ≠ 0 ∧ noReset [.command cmdType] = true ∧
    Sys2Proof.core.run 1 (afterError [.command cmdType]) =
      .next (written (afterError []) [0x40, 0x23, 0x9C]) ∧
    step (afterError [.reset]) = .next State.reset :=
  ⟨rfl, by decide, by decide, rfl, rfl⟩

/-- Each ordinal of R74 is that of its record; the decodings are the theorems `test_decode_…`. -/
theorem witness_OrdinalsSelectTheirOperations :
    (List.range 22).all (fun k => decide ((fullRecord (BitVec.ofNat 5 k) 0).opsel.toNat = k)) = true := by
  decide

theorem witness_SelectorSevenIsTheOnlyInvalidType :
    (decode (fullRecord 20 7)).toOption = some (.datas none 0x13 0x16) ∧
    typeOperand (.datas none 0x13 0x16) ≠ none ∧ (fullRecord 20 7).t = 7 ∧
    raises (.datas none 0x13 0x16) 1 = true := by decide

/-- Two records of `RAW` that agree on `idx`, `min` and `max` and differ in `bytes`. -/
theorem witness_UnlistedFieldsAreIgnored :
    let c : Command := { opsel := 14, idx := 3, min := 1, max := 2 }
    let d : Command := { opsel := 14, idx := 3, min := 1, max := 2, bytes := [0x41] }
    c ≠ d ∧ c.opsel = d.opsel ∧ c.idx = d.idx ∧ c.min = d.min ∧ c.max = d.max ∧
      c.opsel ∉ ([0, 1, 4, 5, 20, 21] : List (BitVec 5)) ∧
      c.opsel ∉ ([2, 8, 13, 17] : List (BitVec 5)) := by decide

theorem witness_ReservedSelectorsAreRefused : 22 ≤ cmdReserved.opsel.toNat ∧
    step (presenting [.command cmdReserved]) = .refused (.reservedSelector 22) :=
  ⟨by decide, rfl⟩

theorem witness_StepRunsTheDecodedOperation :
    (presenting [.command cmdType]).inputs = .command cmdType :: [] ∧
    decode cmdType = .ok (.type 35) ∧ State.reset.inputs = [] :=
  ⟨rfl, rfl, rfl⟩

/-- 7 of `Int8` keeps 4, so that the statement's last clause is met on its left; 16 keeps all 16. -/
theorem witness_LcarrayAnswerFillsTheLengthClass :
    answers (.lcarray (some .int8) 7) (.pair 2 4) = true ∧
    answers (.lcarray (some .int8) 16) (.pair 4 16) = true ∧ (7 : BitVec 16) ≠ 0 := by decide

/-- -32768 and 32767, the two ends of `Int16`; -32768 is a vector of Part 2.1. -/
theorem witness_NencCarriesIntegersAsTwosComplement :
    answers (.nenc (some .int16) (BitVec.ofInt 32 (-32768))) (.bytes [0x00, 0x80]) = true ∧
    answers (.nenc (some .int16) (BitVec.ofInt 32 32767)) (.bytes [0xFF, 0x7F]) = true ∧
    (-(2 ^ (8 * byteWidth .int16 - 1)) : Int) ≤ -32768 ∧
    (32767 : Int) < 2 ^ (8 * byteWidth .int16 - 1) := by decide

theorem witness_ChkappAppendsTheChecksum :
    ([0x34, 0x12] : Bytes).Perm [0x12, 0x34] := by decide

theorem witness_HeaderUnpacksForAlignedBases :
    (7 : Byte).toNat ≤ 7 ∧ (4 : Byte).toNat ≤ 4 ∧ (0x80 : Byte).extractLsb' 0 6 = 0 ∧
    answers (.hdrpack 0x80 4 7) (.byte 0xA7) = true := by decide

theorem witness_HeaderKeepsBitsOfTheBase :
    (7 : Byte).toNat ≤ 7 ∧ (4 : Byte).toNat ≤ 4 ∧ answers (.hdrpack 0x07 0 0) (.byte 0x07) = true ∧
    answers (.hdrpack 0x51 2 2) (.byte 0x53) = true := by decide

/-- The longest body: a sub-id and 16 data bytes. -/
theorem witness_FrameIsChkappOfHeaderAndPayload : (7 : Byte).toNat ≤ 7 ∧ text16.length < 2 ^ 16 ∧
    answers (.lcvalid 4 (BitVec.ofNat 16 text16.length)) (.number 1) = true ∧
    answers (.chkapp ([0xA7, 0x00] ++ text16)) (.bytes ([0xA7, 0x00] ++ text16 ++ [0x48])) = true ∧
    sends (.frame 0x80 4 7 (some 0x00) text16) ([0xA7, 0x00] ++ text16 ++ [0x48]) = true := by decide

theorem witness_FormatHeaderLosesBitZeroOfIndex :
    sends (.format (BitVec.ofNat 8 (2 * 0)) 1 1 4 0) [0x51, 0x80, 0x01, 0x01, 0x04, 0x00, 0x2A] = true ∧
    sends (.format (BitVec.ofNat 8 (2 * 3 + 1)) 1 1 4 0) [0x57, 0x80, 0x01, 0x01, 0x04, 0x00, 0x2C] = true
    := by decide

/-- `LCARRAY Int16, 3` answers (2, 2), and `DATAA` of three elements writes the first two. -/
theorem witness_DroppedElementsLeaveNoTrace : (7 : Byte).toNat ≤ 7 ∧ ([1, 2, 3] : List Word) ≠ [] ∧
    ([1, 2, 3] : List Word).length < 2 ^ 16 ∧
    answers (.lcarray (some .int16) (BitVec.ofNat 16 3)) (.pair 2 2) = true ∧
    sends (.dataa (some .int16) 3 [1, 2, 3]) [0xD3, 0x01, 0x00, 0x02, 0x00, 0x2F] = true := by decide

/-- For the statements about an operation that reports an error, each of the four codes. -/
theorem witness_RaisingChangesOnlyStatusAndFault :
    exec (.datas none 8 5) State.reset = .next (failed State.reset 1) ∧
    exec (.name 8 text17) State.reset = .next (failed State.reset 2) ∧
    exec (.modes 9 0) (afterError []) = .next (failed (afterError []) 3) ∧
    exec (.dataa (some .int8) 1 []) (afterError []) = .next (failed (afterError []) 4) :=
  ⟨rfl, rfl, rfl, rfl⟩

/-- For the statements about an operation that succeeds: a query and a message operation. -/
theorem witness_SuccessAnswersOrWritesOnce :
    exec (.lcvalid 5 32) (afterError []) = .next (answered (afterError []) (.number 0)) ∧
    ordinal (.lcvalid 5 32) ≤ 7 ∧
    exec (.frame 0xC0 0 0 none [0x55]) (afterError []) =
      .next (written (afterError []) [0xC0, 0x55, 0x6A]) ∧
    8 ≤ ordinal (.frame 0xC0 0 0 none [0x55]) :=
  ⟨rfl, by decide, rfl, by decide⟩

theorem witness_IssuingTwiceAppendsTwoMessages :
    exec (.type 35) State.reset = .next (written State.reset [0x40, 0x23, 0x9C]) ∧
    (written State.reset [0x40, 0x23, 0x9C]).sink = State.reset.sink ++ [[0x40, 0x23, 0x9C]] :=
  ⟨rfl, rfl⟩

/-- The right sides of the three conditions, and of the four cases of R254 with R258's priority. -/
theorem witness_ErrorConditions :
    typeOperand (.datas none 8 5) = some none ∧
    indexOperand (.name 8 text17) = some 8 ∧ typeOperand (.name 8 text17) ≠ some none ∧
    raises (.modes 9 0) 3 = true ∧
    raises (.hdrpack 0xC0 5 7) 4 = true ∧ raises (.frame 0xC0 1 0 none [0x01]) 4 = true ∧
    raises (.units 7 text17) 4 = true ∧ raises (.lcarray (some .int8) 0) 4 = true ∧
    raises (.dataa (some .int8) 7 []) 4 = true := by decide

theorem witness_NextOperationIgnoresAnEarlierError :
    exec (.modes 9 0) State.reset = .next (failed State.reset 3) ∧
    exec (.type 35) (failed State.reset 3) =
      .next (written (failed State.reset 3) [0x40, 0x23, 0x9C]) :=
  ⟨rfl, rfl⟩

/-- A literal header (4 data bytes), a format M2 header and a format M3 header. -/
theorem witness_HeaderTellsTheMessageLength :
    ordinal (.speed 115200) ≠ 8 ∧ follow 0x52 = 5 ∧
    sends (.speed 115200) [0x52, 0x00, 0xC2, 0x01, 0x00, 0x6E] = true ∧
    follow 0x57 = 6 ∧ sends (.format 7 1 1 4 0) [0x57, 0x80, 0x01, 0x01, 0x04, 0x00, 0x2C] = true ∧
    follow 0xC7 = 2 ∧ sends (.datas (some .uint8) 7 255) [0xC7, 0xFF, 0xC7] = true := by decide

/-- Both ends of the header range of a text message. -/
theorem witness_HeadersFollowTheOperationMap :
    ordinal (.name 7 text16) ≠ 8 ∧
    exec (.name 0 []) State.reset = .next (written State.reset [0x80, 0x00, 0x00, 0x7F]) ∧
    headerRow (.name 0 []) 0x80 0x00 ∧
    exec (.name 7 text16) State.reset =
      .next (written State.reset ([0xA7, 0x00] ++ text16 ++ [0x48])) ∧
    headerRow (.name 7 text16) 0xA7 0x00 :=
  ⟨by decide, rfl, ⟨by decide, by decide, rfl⟩, rfl, ⟨by decide, by decide, rfl⟩⟩

/-- The mode of program P1 of Part 3. -/
def modeP1 : ModeDesc where
  name := [0x44, 0x49, 0x53, 0x54]
  rawMin := 0
  rawMax := 0x44FA0000
  pctMin := 0
  pctMax := 0x42C80000
  siMin := 0
  siMax := 0x43480000
  unit := [0x63, 0x6D]
  mapIn := 0x91
  mapOut := 0x00
  sampleCount := 1
  typeCode := 1
  figures := 4
  decimals := 0
  hasView := true

/-- The device of programs P1 and P4, with `k` modes. -/
def device (sensorType : Byte) (k : Nat) : DeviceDesc where
  sensorType := sensorType
  rate := 115200
  hw := 0x10000000
  sw := 0x10000000
  modes := List.replicate k modeP1

theorem device_modes_length (x : Byte) (k : Nat) : (device x k).modes.length = k := List.length_replicate

/-- The messages 5 to 11 of the table of P1. -/
def messagesP1 : List Bytes :=
  [[0x90, 0x00, 0x44, 0x49, 0x53, 0x54, 0x65],
   [0x98, 0x01, 0x00, 0x00, 0x00, 0x00, 0x00, 0x00, 0xFA, 0x44, 0xD8],
   [0x98, 0x02, 0x00, 0x00, 0x00, 0x00, 0x00, 0x00, 0xC8, 0x42, 0xEF],
   [0x98, 0x03, 0x00, 0x00, 0x00, 0x00, 0x00, 0x00, 0x48, 0x43, 0x6F],
   [0x88, 0x04, 0x63, 0x6D, 0x7D], [0x88, 0x05, 0x91, 0x00, 0xE3],
   [0x51, 0x80, 0x01, 0x01, 0x04, 0x00, 0x2A]]

/-- The statement's messages are those of the spec's table, and the model writes them; index 7 and texts of the greatest
length meet the hypotheses too. -/
theorem witness_SetupModeWritesSevenMessages :
    (0 : Byte).toNat ≤ 7 ∧ modeP1.name.length ≤ 16 ∧ modeP1.unit.length ≤ 16 ∧
    setupMessages 0 modeP1 = messagesP1 ∧
    nextOf (runSequence (setupMode 0 modeP1) State.reset) = some (writtenAll State.reset messagesP1) ∧
    (7 : Byte).toNat ≤ 7 ∧ ({ modeP1 with name := text16, unit := text16 } : ModeDesc).name.length ≤ 16 ∧
    ({ modeP1 with name := text16, unit := text16 } : ModeDesc).unit.length ≤ 16 := by decide

theorem witness_SetupModeStopsAtTheFirstError :
    7 < (8 : Byte).toNat ∧ 16 < ({ modeP1 with name := text17 } : ModeDesc).name.length ∧
    modeP1.name.length ≤ 16 ∧ 16 < ({ modeP1 with unit := text17 } : ModeDesc).unit.length := by decide

/-- The two modes of program P2 of Part 3: they differ in every field but the percent range and the output tag. -/
def modesP2 : List ModeDesc :=
  [{ name := [0x43, 0x4F, 0x4C, 0x4F, 0x52], rawMin := 0, rawMax := 0x41200000, pctMin := 0,
     pctMax := 0x42C80000, siMin := 0, siMax := 0x41200000, unit := [0x49, 0x44, 0x58], mapIn := 0xE4,
     mapOut := 0, sampleCount := 1, typeCode := 0, figures := 3, decimals := 0, hasView := true },
   { name := [0x52, 0x47, 0x42], rawMin := 0, rawMax := 0x447FC000, pctMin := 0, pctMax := 0x42C80000,
     siMin := 0, siMax := 0x447FC000, unit := [], mapIn := 0x10, mapOut := 0, sampleCount := 3,
     typeCode := 1, figures := 5, decimals := 0, hasView := false }]

/-- Part 3, P1: the four identity messages and the seven of the mode; eight modes meet the hypotheses too. -/
theorem witness_HandshakeWritesFourPlusSevenPerMode :
    (device 62 1).modes.length ≤ 8 ∧
    (∀ m ∈ (device 62 1).modes, m.name.length ≤ 16 ∧ m.unit.length ≤ 16) ∧
    handshakeMessages (device 62 1) =
      [[0x40, 0x3E, 0x81], [0x52, 0x00, 0xC2, 0x01, 0x00, 0x6E], [0x49, 0x00, 0x00, 0xB6],
       [0x5F, 0x10, 0x00, 0x00, 0x00, 0x10, 0x00, 0x00, 0x00, 0xA0]] ++ messagesP1 ∧
    (device 62 8).modes.length ≤ 8 ∧
    (∀ m ∈ (device 62 8).modes, m.name.length ≤ 16 ∧ m.unit.length ≤ 16) := by decide

/-- Part 3, P2: the model writes messages 3, 5, 12, 16 and 18 of its table where the table has them. -/
theorem test_handshake_of_two_modes :
    let sent := ((nextOf (runSequence (handshake { device 61 0 with modes := modesP2 }) State.reset)).map
      State.sink).getD []
    sent.length = 18 ∧ sent[2]? = some [0x49, 0x01, 0x00, 0xB7] ∧
      sent[4]? = some [0x98, 0x00, 0x43, 0x4F, 0x4C, 0x4F, 0x52, 0x00, 0x00, 0x00, 0x3A] ∧
      sent[11]? = some [0x91, 0x00, 0x52, 0x47, 0x42, 0x00, 0x39] ∧
      sent[15]? = some [0x81, 0x04, 0x00, 0x7A] ∧
      sent[17]? = some [0x51, 0x80, 0x03, 0x01, 0x05, 0x00, 0x29] := by decide

/-- The `MODES` command of P2 and of P4, and the count at 255 and 256 modes. -/
theorem witness_HandshakePassesCountAndViewFlags :
    (handshake { device 61 0 with modes := modesP2 })[2]? = some (.modes 2 0x01) ∧
    (handshake (device 35 9))[2]? = some (.modes 9 0xFF) ∧
    modeCountOf (device 35 255).modes = 255 ∧ modeCountOf (device 35 256).modes = 255 :=
  ⟨by decide, by decide, by rw [modeCountOf, device_modes_length]; rfl,
    by rw [modeCountOf, device_modes_length]; rfl⟩

/-- Part 3, P4: nine modes; two messages are written and `fault` is 3. -/
theorem witness_HandshakeOfNineModesStopsAfterTwoMessages :
    8 < (device 35 9).modes.length ∧
    (nextOf (runSequence (handshake (device 35 9)) State.reset)).map (fun t => (t.sink, t.fault)) =
      some ([[0x40, 0x23, 0x9C], [0x52, 0x00, 0xC2, 0x01, 0x00, 0x6E]], 3) := by decide

theorem witness_SequenceIsItsCommandsPresentedInOrder :
    (afterError []).inputs = [] ∧
    runSequence [.type 35, .lctext 3] State.reset =
      .next (answered (written State.reset [0x40, 0x23, 0x9C]) (.number 2)) ∧
    (answered (written State.reset [0x40, 0x23, 0x9C]) (.number 2)).lastOk = true :=
  ⟨rfl, rfl, by decide⟩

end Sys2Proof.Tests
end

section
/-! PROOFS. State and reset (spec/10_state.md): what an operation does to the response port and to the log is a function
of its operands, and the log only grows between resets. -/

namespace Sys2Proof.Machine

/-! ### The response and the write of an operation (R20) -/

/-- From every state `f` goes on, answers the record `r` and appends exactly the messages `ms` to the log. -/
def RespondsAndWrites (f : State → StepOutcome) (r : Response) (ms : List Bytes) : Prop :=
  ∀ s, ∃ t, f s = .next t ∧ t.response = some r ∧ t.sink = s.sink ++ ms

/-- An error answers its code and writes nothing. -/
theorem raise_respondsAndWrites (e : FramerError) :
    RespondsAndWrites (fun s => .next (s.raise e)) ⟨errorCode e, none⟩ [] :=
  fun s => ⟨s.raise e, rfl, by simp, by simp⟩

theorem query_respondsAndWrites (a : Except FramerError Result) :
    ∃ r, RespondsAndWrites (query a) r [] := by
  cases a with
  | error e => exact ⟨_, raise_respondsAndWrites e⟩
  | ok v => exact ⟨⟨statusOk, some v⟩, fun s => ⟨s.respond (some v), by simp⟩⟩

theorem emit_respondsAndWrites (a : Except FramerError Bytes) :
    ∃ r ms, ms.length ≤ 1 ∧ RespondsAndWrites (emit a) r ms := by
  cases a with
  | error e => exact ⟨_, [], by simp, raise_respondsAndWrites e⟩
  | ok m =>
    exact ⟨⟨statusOk, none⟩, [m], by simp, fun s => ⟨(s.sinkWrite m).respond none, by simp⟩⟩

/-- The record and the messages, at most one, of an operation are fixed before the state is known (R20, R41). -/
theorem exec_respondsAndWrites (i : Instr) :
    ∃ r ms, ms.length ≤ 1 ∧ RespondsAndWrites (exec i) r ms := by
  rcases exec_shape i with ⟨-, a, ha⟩ | ⟨-, a, -, ha⟩
  · obtain ⟨r, hr⟩ := query_respondsAndWrites a
    exact ⟨r, [], by simp, (funext ha : exec i = query a) ▸ hr⟩
  · exact (funext ha : exec i = emit a) ▸ emit_respondsAndWrites a

/-- Settles O5: the record and the messages of `exec_respondsAndWrites` serve for both states. -/
theorem operationsDependOnOperandsAlone : Obligations.OperationsDependOnOperandsAlone := by
  intro i s₁ s₂
  obtain ⟨r, ms, -, h⟩ := exec_respondsAndWrites i
  obtain ⟨t₁, he₁, hr₁, hs₁⟩ := h s₁
  obtain ⟨t₂, he₂, hr₂, hs₂⟩ := h s₂
  exact ⟨t₁, t₂, ms, he₁, he₂, hr₁.trans hr₂.symm, hs₁, hs₂⟩

/-! ### Runs without a reset -/

@[simp] theorem noReset_reset_cons (rest : List HostInput) : noReset (.reset :: rest) = false := rfl
@[simp] theorem noReset_command_cons (c : Command) (rest : List HostInput) :
    noReset (.command c :: rest) = noReset rest := rfl

/-- Everything a step that goes on can have done when the host presents no reset: nothing, or the decoded operation. -/
theorem step_cases_of_noReset {s t : State} (hn : noReset s.inputs = true) (h : step s = .next t) :
    (s.inputs = [] ∧ t = s) ∨
    (∃ c rest i, s.inputs = .command c :: rest ∧ decode c = .ok i ∧
      exec i { s with inputs := rest } = .next t) := by
  rcases step_cases h with hidle | ⟨rest, hin, -⟩ | hcmd
  · exact .inl hidle
  · simp [hin] at hn
  · exact .inr hcmd

/-- A step leaves no reset to come where none was. -/
theorem step_noReset {s t : State} (hn : noReset s.inputs = true) (h : step s = .next t) :
    noReset t.inputs = true := by
  rcases step_cases_of_noReset hn h with ⟨-, rfl⟩ | ⟨c, rest, i, hin, -, he⟩
  · exact hn
  · rw [hin, noReset_command_cons] at hn
    rwa [exec_inputs he]

/-- A property of the length, start and end of a run that holds of the empty run, and that a step from a state without
a presented reset carries to one step more, holds of every run without a reset. -/
theorem run_induction_of_noReset {P : Nat → State → State → Prop} (zero : ∀ s, P 0 s s)
    (succ : ∀ k s u t, noReset s.inputs = true → step s = .next u → P k u t → P (k + 1) s t)
    {k : Nat} {s t : State} (hn : noReset s.inputs = true)
    (h : Sys2Proof.core.run k s = .next t) : P k s t := by
  induction k generalizing s with
  | zero => cases h; exact zero _
  | succ k ih =>
    obtain ⟨u, hu, hr⟩ := run_succ h
    exact succ k s u t hn hu (ih (step_noReset hn hu) hr)

/-! ### The log between resets (R21, R51) -/

/-- The log of `t` is that of `s` followed by at most `k` messages. -/
def SinkGrowsBy (k : Nat) (s t : State) : Prop :=
  ∃ ms : List Bytes, ms.length ≤ k ∧ t.sink = s.sink ++ ms

theorem SinkGrowsBy.refl (k : Nat) (s : State) : SinkGrowsBy k s s := ⟨[], by simp, by simp⟩

theorem SinkGrowsBy.trans {j k : Nat} {s u t : State} (h₁ : SinkGrowsBy j s u)
    (h₂ : SinkGrowsBy k u t) : SinkGrowsBy (k + j) s t := by
  obtain ⟨ms₁, hl₁, hs₁⟩ := h₁
  obtain ⟨ms₂, hl₂, hs₂⟩ := h₂
  refine ⟨ms₁ ++ ms₂, ?_, ?_⟩
  · rw [List.length_append]; omega
  · rw [hs₂, hs₁, List.append_assoc]

theorem exec_sinkGrowsBy_one {i : Instr} {s t : State} (h : exec i s = .next t) :
    SinkGrowsBy 1 s t := by
  obtain ⟨r, ms, hl, hw⟩ := exec_respondsAndWrites i
  obtain ⟨u, hu, -, hs⟩ := hw s
  cases h.symm.trans hu
  exact ⟨ms, hl, hs⟩

theorem step_sinkGrowsBy_one {s t : State} (hn : noReset s.inputs = true) (h : step s = .next t) :
    SinkGrowsBy 1 s t := by
  rcases step_cases_of_noReset hn h with ⟨-, rfl⟩ | ⟨c, rest, i, -, -, he⟩
  · exact .refl 1 t
  · have hg : SinkGrowsBy 1 { s with inputs := rest } t := exec_sinkGrowsBy_one he
    exact hg

theorem run_sinkGrowsBy {k : Nat} {s t : State} (hn : noReset s.inputs = true)
    (h : Sys2Proof.core.run k s = .next t) : SinkGrowsBy k s t :=
  run_induction_of_noReset (.refl 0)
    (fun _ _ _ _ hn hu hrest => (step_sinkGrowsBy_one hn hu).trans hrest) hn h

/-- Messages appended to the log are appended to the wire stream byte for byte (R21). -/
theorem wire_of_sink_append {s t : State} {ms : List Bytes} (h : t.sink = s.sink ++ ms) :
    t.wire = s.wire ++ ms.flatten := by
  simp [State.wire, h]

/-- Settles O6: every step without a reset appends at most one message (`step_sinkGrowsBy_one`), by induction on the
number of steps; the wire stream follows the log. -/
theorem sinkOnlyGrowsAlongRuns : Obligations.SinkOnlyGrowsAlongRuns := by
  intro k s t hn h
  obtain ⟨ms, hl, hs⟩ := run_sinkGrowsBy hn h
  exact ⟨ms, hl, hs, wire_of_sink_append hs⟩

end Sys2Proof.Machine
end

section
/-! PROOFS. The sink as the framer's only memory (spec/20_memory.md): what an operation that succeeds has done, and what
issuing it again does. -/

namespace Sys2Proof.Machine

open Sys2Proof.Claims

/-- Everything an operation that reports status 0 can have done: a query has answered a value, a message operation has
written a message. It has not raised, since no error has code 0 (R250). -/
theorem exec_cases_of_status_zero {i : Instr} {s t : State} {r : Response} (h : exec i s = .next t)
    (hr : t.response = some r) (h0 : r.status = 0) :
    (∃ v, ordinal i ≤ 7 ∧ t = s.respond (some v) ∧ r = ⟨statusOk, some v⟩) ∨
    (∃ m, 8 ≤ ordinal i ∧ t = (s.sinkWrite m).respond none ∧ r = ⟨statusOk, none⟩) := by
  rcases exec_cases h with ⟨v, ho, rfl⟩ | ⟨m, ho, -, rfl⟩ | ⟨e, rfl⟩
  · exact .inl ⟨v, ho, rfl, by simpa using hr.symm⟩
  · exact .inr ⟨m, ho, rfl, by simpa using hr.symm⟩
  · obtain rfl : ⟨errorCode e, none⟩ = r := by simpa using hr
    exact absurd h0 (errorCode_ne_zero e)

/-- Settles O47: by `exec_cases_of_status_zero` the operation answered or wrote, and its ordinal says which. -/
theorem successAnswersOrWritesOnce : Obligations.SuccessAnswersOrWritesOnce := by
  intro i s t r h hr h0
  rcases exec_cases_of_status_zero h hr h0 with ⟨v, ho, rfl, rfl⟩ | ⟨m, ho, rfl, rfl⟩
  · exact ⟨rfl, rfl, fun _ => ⟨rfl, by simp⟩, fun _ => by omega⟩
  · exact ⟨rfl, rfl, fun _ => by omega, fun _ => ⟨rfl, m, rfl⟩⟩

/-- The log that `f` leaves behind tells the messages it wrote. -/
theorem RespondsAndWrites.sink_of_next {f : State → StepOutcome} {r : Response} {ms : List Bytes}
    (hw : RespondsAndWrites f r ms) {s t : State} (h : f s = .next t) : t.sink = s.sink ++ ms := by
  obtain ⟨u, hu, -, hs⟩ := hw s
  cases h.symm.trans hu
  exact hs

/-- Settles O48: the messages `ms` of `exec_respondsAndWrites` are the same from both states, and the first log says
that they are `[m]`. -/
theorem issuingTwiceAppendsTwoMessages : Obligations.IssuingTwiceAppendsTwoMessages := by
  intro i s t m h hm
  obtain ⟨r, ms, -, hw⟩ := exec_respondsAndWrites i
  have hms : [m] = ms := List.append_cancel_left (hm.symm.trans (hw.sink_of_next h))
  obtain ⟨u, hu, -, hs⟩ := hw t
  refine ⟨u, hu, ?_⟩
  calc u.sink = t.sink ++ [m] := by rw [hs, hms]
    _ = s.sink ++ [m, m] := by rw [hm, List.append_assoc, List.singleton_append]

end Sys2Proof.Machine
end

section
/-! PROOFS. The command port (spec/30_encoding.md R72 to R75): what each ordinal selects, which fields it reads, which
ordinals are reserved, and what selector 7 of the type operand does. -/

namespace Sys2Proof.Machine

open Sys2Proof.Claims

/-! ### The decoder by its cases (R74, R75) -/

/-- A reserved ordinal is rejected by name (R75). -/
theorem decode_reserved {c : Command} (h : 22 ≤ c.opsel.toNat) :
    decode c = .error (.reservedSelector c.opsel) := by
  obtain ⟨k, hk⟩ := Nat.exists_eq_add_of_le' h
  unfold decode
  rw [hk]
  rfl

/-- Every other ordinal selects an operation (R74). -/
theorem decode_ok_of_lt {c : Command} (h : c.opsel.toNat < 22) : ∃ i, decode c = .ok i := by
  unfold decode
  generalize c.opsel.toNat = k at *
  interval_cases k <;> exact ⟨_, rfl⟩

/-- Settles O8: each ordinal picks its row of the decoder's table. -/
theorem ordinalsSelectTheirOperations : Obligations.OrdinalsSelectTheirOperations := by
  intro c
  constructorm* _ ∧ _ <;> exact fun h => by simp [decode, h]

/-- The selector code names its type operand (R73). -/
@[simp] theorem typeOfSelector_selectorOfType (t : TypeSel) :
    typeOfSelector (selectorOfType t) = t := by
  rcases t with - | ty
  · rfl
  · cases ty <;> rfl

/-- The record of an operation decodes to it. -/
@[simp] theorem decode_encode (i : Instr) : decode (encode i) = .ok i := by
  cases i <;> simp [decode, encode]

/-- Settles O12: by `decode_ok_of_lt` and `decode_reserved` the decoder rejects exactly the reserved ordinals, and a step
refuses what the decoder rejects. -/
theorem reservedSelectorsAreRefused : Obligations.ReservedSelectorsAreRefused := by
  refine ⟨fun c => ⟨fun h => ?_, decode_reserved⟩, fun s c rest hin h => ?_⟩
  · by_contra hlt
    obtain ⟨i, hi⟩ := decode_ok_of_lt (Nat.lt_of_not_le hlt)
    rw [hi] at h
    cases h
  · simp [step, hin, decode_reserved h]

/-- Settles O11: at each of the 22 ordinals the listed fields, equal in both records, are all that the row reads; a
reserved ordinal is rejected whatever the fields hold. -/
theorem unlistedFieldsAreIgnored : Obligations.UnlistedFieldsAreIgnored := by
  intro c d hop ht hcb hexp hidx hsub hbytes hv hvs hn hsensor hrate hmodes hversion hrange hmap hformat
  rcases Nat.lt_or_ge c.opsel.toNat 22 with hlt | hge
  · have hc : c.opsel = BitVec.ofNat 5 c.opsel.toNat := by simp
    unfold decode
    rw [← hop]
    generalize c.opsel.toNat = k at *
    rw [hc] at ht hcb hexp hidx hsub hbytes hv hvs hn hsensor hrate hmodes hversion hrange hmap hformat
    clear hc hop
    interval_cases k <;>
      simp (disch := decide) only [ht, hcb, hexp, hidx, hsub, hbytes, hv, hvs, hn, hsensor, hrate,
        hmodes, hversion, hrange, hmap, hformat]
  · rw [decode_reserved hge, decode_reserved (hop ▸ hge), hop]

/-! ### The type operand (R73) -/

/-- The type operand of a decoded operation is what the `t` field selects. -/
theorem decode_typeOperand {c : Command} {i : Instr} (h : decode c = .ok i)
    (ht : typeOperand i ≠ none) : typeOperand i = some (typeOfSelector c.t) := by
  unfold decode at h
  split at h <;> cases h <;> simp [typeOperand] at ht ⊢

/-- An operation whose type operand is no type raises `InvalidType`, before any other check (R113, R258). -/
theorem exec_invalidType {i : Instr} (h : typeOperand i = some none) (s : State) :
    exec i s = .next (s.raise .invalidType) := by
  cases i with
  | widthof t | nenc t _ | lcscalar t | lcarray t _ | datas t _ _ | dataa t _ _ =>
    obtain rfl : t = none := Option.some.inj h
    rfl
  | _ => cases h

/-- The claims' state after an error is the model's. -/
theorem raise_eq_failed (s : State) (e : FramerError) : s.raise e = failed s (errorCode e) := rfl

/-- Settles O9: the eight codes by evaluation; with `t = 7` the decoded type operand is no type (`decode_typeOperand`),
so the operation raises (`exec_invalidType`). -/
theorem selectorSevenIsTheOnlyInvalidType : Obligations.SelectorSevenIsTheOnlyInvalidType := by
  refine ⟨rfl, rfl, rfl, rfl, rfl, rfl, rfl, rfl, fun c i s hd ht h7 => ?_⟩
  have hnone : typeOperand i = some none := by rw [decode_typeOperand hd ht, h7]; rfl
  exact exec_invalidType hnone s

end Sys2Proof.Machine
end

section
/-! PROOFS. Sequences on the command port (spec/30_encoding.md R79, spec/47_sequences.md R242): a sequence that raises
nothing is its operations presented one after another. -/

namespace Sys2Proof.Machine

open Sys2Proof.Claims

/-- A query does not read what the host has yet to present. -/
theorem query_withInputs {r : Except FramerError Result} {s t : State} (h : query r s = .next t)
    (xs : List HostInput) : query r { s with inputs := xs } = .next { t with inputs := xs } := by
  rcases query_cases h with ⟨v, rfl, rfl⟩ | ⟨e, rfl, rfl⟩ <;> rfl

/-- A message operation does not read what the host has yet to present. -/
theorem emit_withInputs {r : Except FramerError Bytes} {s t : State} (h : emit r s = .next t)
    (xs : List HostInput) : emit r { s with inputs := xs } = .next { t with inputs := xs } := by
  rcases emit_cases h with ⟨m, rfl, rfl⟩ | ⟨e, rfl, rfl⟩ <;> rfl

/-- An operation does the same whatever the host has yet to present, and leaves that as it is. -/
theorem exec_withInputs {i : Instr} {s t : State} (h : exec i s = .next t) (xs : List HostInput) :
    exec i { s with inputs := xs } = .next { t with inputs := xs } := by
  rcases exec_shape i with ⟨-, r, hr⟩ | ⟨-, r, -, hr⟩
  · rw [hr] at h ⊢
    exact query_withInputs h xs
  · rw [hr] at h ⊢
    exact emit_withInputs h xs

/-- A step takes the record of an operation from the head of the inputs and does what the operation does. -/
theorem step_encode_cons {i : Instr} {s t : State} (h : exec i s = .next t) (xs : List HostInput) :
    step { s with inputs := .command (encode i) :: xs } = .next { t with inputs := xs } := by
  rw [step_command rfl (decode_encode i)]
  exact exec_withInputs h xs

/-- A step that goes on is the first of a run. -/
theorem run_succ_of_step {k : Nat} {s u : State} (h : step s = .next u) :
    Sys2Proof.core.run (k + 1) s = Sys2Proof.core.run k u := by
  simp only [Host.Core.run]
  rw [show Sys2Proof.core.step s = .next u from h]

/-- A sequence that ends with status OK has not stopped at its first operation (R242). -/
theorem runSequence_cons_of_lastOk {i : Instr} {is : List Instr} {s t : State}
    (h : runSequence (i :: is) s = .next t) (hok : t.lastOk = true) :
    ∃ u, exec i s = .next u ∧ runSequence is u = .next t := by
  unfold runSequence at h
  split at h
  case h_1 u hu =>
    refine ⟨u, hu, ?_⟩
    split at h
    · exact h
    · cases h
      contradiction
  all_goals cases h

/-- A sequence that ends with status OK is a run over its commands, from any state and before any later inputs. -/
theorem run_presented {is : List Instr} {s t : State} (h : runSequence is s = .next t)
    (hok : t.lastOk = true) (xs : List HostInput) :
    Sys2Proof.core.run is.length { s with inputs := presented is ++ xs } =
      .next { t with inputs := xs } := by
  induction is generalizing s with
  | nil => cases h; rfl
  | cons i is ih =>
    obtain ⟨u, hu, hrest⟩ := runSequence_cons_of_lastOk h hok
    exact (run_succ_of_step (step_encode_cons hu (presented is ++ xs))).trans (ih hrest)

/-- A sequence leaves what the host has yet to present as it is. -/
theorem runSequence_inputs {is : List Instr} {s t : State} (h : runSequence is s = .next t) :
    t.inputs = s.inputs := by
  induction is generalizing s with
  | nil => cases h; rfl
  | cons i is ih =>
    unfold runSequence at h
    split at h
    case h_1 u hu =>
      split at h
      · rw [ih h, exec_inputs hu]
      · cases h; exact exec_inputs hu
    all_goals cases h

/-- Settles O59: `run_presented` with no later inputs; the sequence left none either. -/
theorem sequenceIsItsCommandsPresentedInOrder :
    Obligations.SequenceIsItsCommandsPresentedInOrder := by
  intro is s t hin h hok
  have hrun := run_presented h hok []
  rw [List.append_nil] at hrun
  have ht : t.inputs = [] := (runSequence_inputs h).trans hin
  rw [hrun, ← ht]

end Sys2Proof.Machine
end

section
/-! PROOFS. Messages on the wire (spec/30_encoding.md R61 to R69): the message of each operation, and the length that
its header tells. -/

namespace Sys2Proof.Machine

open Sys2Proof.Claims

/-! ### The message of an operation -/

/-- The message that an operation writes: none for a query, and none when the operation raises. -/
def messageOf : Instr → Option Bytes
  | .frame cb exp idx sub bytes => (frame cb exp.toNat idx sub bytes).toOption
  | .type sensorType => some (chk [config.cbType, sensorType])
  | .speed rate => some (chk ([config.cbSpeed] ++ leBytes 4 rate))
  | .modes modeCount viewFlags =>
    if modeCount.toNat > config.modesMax then none
    else some (chk [config.cbModes, countMinusOne modeCount.toNat,
      countMinusOne (viewCount modeCount viewFlags)])
  | .version hw sw => some (chk ([config.cbVersion] ++ beBytes4 hw ++ beBytes4 sw))
  | .name idx bytes => (textMessage config.subName idx bytes).toOption
  | .raw idx min max => (rangeMessage config.subRaw idx min max).toOption
  | .pct idx min max => (rangeMessage config.subPct idx min max).toOption
  | .si idx min max => (rangeMessage config.subSi idx min max).toOption
  | .units idx bytes => (textMessage config.subUnits idx bytes).toOption
  | .mapping idx mapIn mapOut =>
    (frame config.cbInfo 1 idx (some config.subMapping) [mapIn, mapOut]).toOption
  | .format idx sampleCount typeCode figures decimals =>
    (frame config.cbFormat 2 idx (some config.subFormat)
      [lowByte sampleCount, lowByte typeCode, lowByte figures, lowByte decimals]).toOption
  | .datas (some ty) idx v =>
    (frame config.cbData (flog2 (widthTable ty)) idx none (leBytes (widthTable ty) v)).toOption
  | .dataa (some ty) idx vs =>
    if vs.length = 0 then none
    else (frame config.cbData (lcArray (widthTable ty) vs.length) idx none
      (arrayData (widthTable ty) vs)).toOption
  | _ => none

theorem query_sink {r : Except FramerError Result} {s t : State} (h : query r s = .next t) :
    t.sink = s.sink := by
  rcases query_cases h with ⟨v, -, rfl⟩ | ⟨e, -, rfl⟩ <;> rfl

/-- The operations of ordinals 0..7 write nothing (R4). -/
theorem exec_query_sink {i : Instr} {s t : State} (ho : ordinal i ≤ 7) (h : exec i s = .next t) :
    t.sink = s.sink := by
  obtain ⟨r, hr⟩ := exec_query i ho
  exact query_sink (hr s ▸ h)

theorem emit_sink {r : Except FramerError Bytes} {s t : State} (h : emit r s = .next t) :
    t.sink = s.sink ++ r.toOption.toList := by
  rcases emit_cases h with ⟨m, rfl, rfl⟩ | ⟨e, rfl, rfl⟩ <;> simp [Except.toOption]

/-- An operation appends `messageOf` to the log, and nothing else. -/
theorem exec_sink {i : Instr} {s t : State} (h : exec i s = .next t) :
    t.sink = s.sink ++ (messageOf i).toList := by
  cases i with
  | type _ | speed _ | version _ _ => exact emit_sink (r := .ok _) h
  | frame _ _ _ _ _ | name _ _ | raw _ _ _ | pct _ _ _ | si _ _ _ | units _ _ | mapping _ _ _
  | format _ _ _ _ _ => exact emit_sink h
  | modes n _ =>
    by_cases hn : n.toNat > config.modesMax <;>
      simp only [exec, execModes, messageOf, hn, if_true, if_false] at h ⊢ <;> exact emit_sink h
  | datas t _ _ =>
    rcases t with - | ty
    · exact emit_sink (r := .error _) h
    · exact emit_sink h
  | dataa t idx vs =>
    rcases t with - | ty
    · exact emit_sink (r := .error _) h
    · simp only [exec, execDataa, width_some] at h
      split at h
      case isTrue hi =>
        simpa [messageOf, frame_badIndex hi, Except.toOption] using emit_sink h
      case isFalse =>
        by_cases hn : vs.length = 0 <;>
          simp only [messageOf, hn, if_true, if_false] at h ⊢ <;> exact emit_sink h
  | widthof _ | nenc _ _ | chkapp _ | hdrpack _ _ _ | lcscalar _ | lcarray _ _ | lctext _
  | lcvalid _ _ =>
    simpa [messageOf] using exec_query_sink (by simp [ordinal, encode]) h

/-- What `Frame` answers holds the header, at most one sub-id byte, `2^exp` data bytes and the checksum (R152). -/
theorem frame_toOption_eq_some {cb : Byte} {exp : Nat} {idx : Byte} {sub : Option Byte} {data m : Bytes}
    (h : (frame cb exp idx sub data).toOption = some m) :
    idx.toNat ≤ 7 ∧ exp ≤ 4 ∧ data.length = 2 ^ exp ∧
      m = chk (headerByte cb exp idx :: (sub.toList ++ data)) := by
  obtain ⟨-, hr⟩ | ⟨-, -, hr⟩ | ⟨hi, he, hl, hr⟩ := frame_cases cb exp idx sub data <;> rw [hr] at h
  · cases h
  · cases h
  · exact ⟨hi, he, hl, (Option.some.inj h).symm⟩

/-! ### The length that a header tells (R69) -/

/-- A message whose header alone tells how many bytes follow it. -/
def HeaderTellsLength (m : Bytes) : Prop := ∃ h rest, m = h :: rest ∧ rest.length = follow h

theorem headerTellsLength_chk {h : Byte} {body : Bytes} (hf : follow h = body.length + 1) :
    HeaderTellsLength (chk (h :: body)) :=
  ⟨h, body ++ _, rfl, by simp [hf]⟩

theorem headerTellsLength_frame {cb : Byte} {exp : Nat} {idx : Byte} {sub : Option Byte} {data m : Bytes}
    (hf : idx.toNat ≤ 7 → exp ≤ 4 →
      follow (headerByte cb exp idx) = sub.toList.length + 2 ^ exp + 1)
    (h : (frame cb exp idx sub data).toOption = some m) : HeaderTellsLength m := by
  obtain ⟨hi, he, hl, rfl⟩ := frame_toOption_eq_some h
  exact headerTellsLength_chk (by rw [hf hi he, List.length_append, hl])

/-- An info header tells a sub-id byte and its length class. -/
theorem follow_infoHeader : ∀ idx : Byte, idx.toNat ≤ 7 → ∀ exp ≤ 4,
    follow (headerByte config.cbInfo exp idx) = 1 + 2 ^ exp + 1 := by decide

/-- A data header tells its length class, and no sub-id byte. -/
theorem follow_dataHeader : ∀ idx : Byte, idx.toNat ≤ 7 → ∀ exp ≤ 4,
    follow (headerByte config.cbData exp idx) = 0 + 2 ^ exp + 1 := by decide

/-- The four headers of the numeric format, 0x51, 0x53, 0x55 and 0x57, tell a sub-id byte and four data bytes. -/
theorem follow_formatHeader : ∀ idx : Byte, idx.toNat ≤ 7 →
    follow (headerByte config.cbFormat 2 idx) = 1 + 2 ^ 2 + 1 := by decide

theorem headerTellsLength_infoFrame {exp : Nat} {idx sub : Byte} {data m : Bytes}
    (h : (frame config.cbInfo exp idx (some sub) data).toOption = some m) : HeaderTellsLength m :=
  headerTellsLength_frame (follow_infoHeader idx · exp) h

theorem headerTellsLength_dataFrame {exp : Nat} {idx : Byte} {data m : Bytes}
    (h : (frame config.cbData exp idx none data).toOption = some m) : HeaderTellsLength m :=
  headerTellsLength_frame (follow_dataHeader idx · exp) h

/-- The header of every message but one of `FRAME`, whose command base is free, tells its length. -/
theorem headerTellsLength_messageOf {i : Instr} {m : Bytes} (hi : ordinal i ≠ 8)
    (h : messageOf i = some m) : HeaderTellsLength m := by
  cases i with
  | frame _ _ _ _ _ => exact absurd rfl hi
  | type _ | speed _ | version _ _ =>
    cases h
    exact headerTellsLength_chk rfl
  | modes n _ =>
    simp only [messageOf] at h
    split at h
    · cases h
    · cases h
      exact headerTellsLength_chk rfl
  | name _ _ | raw _ _ _ | pct _ _ _ | si _ _ _ | units _ _ | mapping _ _ _ =>
    exact headerTellsLength_infoFrame h
  | format idx _ _ _ _ => exact headerTellsLength_frame (fun hi _ => follow_formatHeader idx hi) h
  | datas t _ _ =>
    rcases t with - | ty
    · cases h
    · exact headerTellsLength_dataFrame h
  | dataa t _ _ =>
    rcases t with - | ty
    · cases h
    · simp only [messageOf] at h
      split at h
      · cases h
      · exact headerTellsLength_dataFrame h
  | widthof _ | nenc _ _ | chkapp _ | hdrpack _ _ _ | lcscalar _ | lcarray _ _ | lctext _
  | lcvalid _ _ => cases h

/-- Settles O52: the message appended is `messageOf i` (`exec_sink`), whose header tells its length. -/
theorem headerTellsTheMessageLength : Obligations.HeaderTellsTheMessageLength := by
  intro i s t m hi h hm
  have hlist : [m] = (messageOf i).toList := List.append_cancel_left (hm.symm.trans (exec_sink h))
  exact headerTellsLength_messageOf hi (Option.toList_eq_singleton_iff.mp hlist.symm)

end Sys2Proof.Machine
end

section
/-! PROOFS. The numeric codec (spec/40_numeric_codec.md): the width table, the bytes of a word, and what their
little-endian sum gives back. -/

namespace Sys2Proof.Machine

open Sys2Proof.Claims

/-! ### What the two queries answer (R101, R110) -/

/-- The claims' state after an answer is the model's. -/
theorem respond_eq_answered (s : State) (r : Result) : s.respond (some r) = answered s r := rfl

/-- The claims' width table is the model's (R100). -/
theorem byteWidth_eq_widthTable (ty : NumericType) : byteWidth ty = widthTable ty := by
  cases ty <;> rfl

/-- The claims' wire bytes are the model's `Enc` (R102). -/
theorem wireBytes_eq_leBytes (ty : NumericType) (v : Word) :
    wireBytes ty v = leBytes (widthTable ty) v := by
  cases ty <;> rfl

theorem exec_widthof (ty : NumericType) (s : State) :
    exec (.widthof (some ty)) s = .next (answered s (.number (byteWidth ty))) := by
  rw [byteWidth_eq_widthTable, ← respond_eq_answered]
  rfl

theorem exec_nenc (ty : NumericType) (v : Word) (s : State) :
    exec (.nenc (some ty) v) s = .next (answered s (.bytes (wireBytes ty v))) := by
  rw [wireBytes_eq_leBytes, ← respond_eq_answered]
  rfl

/-- Settles O15: the seven rows are `exec_widthof` at the seven types; selector 7 raises (`exec_invalidType`). -/
theorem widthofRespondsWithTheWidthTable : Obligations.WidthofRespondsWithTheWidthTable := fun s =>
  ⟨exec_widthof .int8 s, exec_widthof .uint8 s, exec_widthof .int16 s, exec_widthof .uint16 s,
    exec_widthof .int32 s, exec_widthof .uint32 s, exec_widthof .float32 s,
    exec_invalidType rfl s, fun _ => rfl⟩

/-- Settles O16: the seven rows are `exec_nenc` at the seven types; selector 7 raises (`exec_invalidType`). -/
theorem nencRespondsWithLowBytesLittleEndian :
    Obligations.NencRespondsWithLowBytesLittleEndian := fun s v =>
  ⟨exec_nenc .int8 v s, exec_nenc .uint8 v s, exec_nenc .int16 v s, exec_nenc .uint16 v s,
    exec_nenc .int32 v s, exec_nenc .uint32 v s, exec_nenc .float32 v s,
    exec_invalidType rfl s, fun _ => rfl⟩

/-! ### The little-endian sum (R114) -/

theorem leSum_append (a b : Bytes) : leSum (a ++ b) = leSum a + 256 ^ a.length * leSum b := by
  induction a with
  | nil => simp [leSum]
  | cons x a ih =>
    calc leSum (x :: a ++ b) = x.toNat + 256 * (leSum a + 256 ^ a.length * leSum b) := by
          rw [← ih]; rfl
      _ = (x.toNat + 256 * leSum a) + 256 ^ (a.length + 1) * leSum b := by ring

/-- One byte more at the end is the next higher byte of the word. -/
theorem leBytes_succ (n : Nat) (v : Word) :
    leBytes (n + 1) v = leBytes n v ++ [v.extractLsb' (8 * n) 8] := by
  simp [leBytes, List.range_succ]

/-- The remainder modulo `256^(n+1)` is the one modulo `256^n` and, above it, the digit in byte `n`. -/
theorem leSum_leBytes (n : Nat) (v : Word) : leSum (leBytes n v) = v.toNat % 2 ^ (8 * n) := by
  rw [Nat.pow_mul, show 2 ^ 8 = 256 from rfl]
  induction n with
  | zero => simp [leBytes, leSum, Nat.mod_one]
  | succ n ih =>
    have hbyte : leSum [v.extractLsb' (8 * n) 8] = v.toNat / 256 ^ n % 256 := by
      simp [leSum, Nat.shiftRight_eq_div_pow, Nat.pow_mul]
    rw [leBytes_succ, leSum_append, leBytes_length, ih, hbyte, Nat.mod_pow_succ]

theorem wireBytes_length (ty : NumericType) (v : Word) :
    (wireBytes ty v).length = byteWidth ty := by
  rw [wireBytes_eq_leBytes, byteWidth_eq_widthTable, leBytes_length]

theorem leSum_wireBytes (ty : NumericType) (v : Word) :
    leSum (wireBytes ty v) = v.toNat % 2 ^ (8 * byteWidth ty) := by
  rw [wireBytes_eq_leBytes, byteWidth_eq_widthTable, leSum_leBytes]

/-- Settles O17: NENC answers the wire bytes (`exec_nenc`), whose number and sum are `wireBytes_length` and
`leSum_wireBytes`. -/
theorem nencBytesSumBackToTheWord : Obligations.NencBytesSumBackToTheWord := fun ty v s =>
  ⟨wireBytes ty v, exec_nenc ty v s, wireBytes_length ty v, leSum_wireBytes ty v⟩

/-! ### Integers as two's complement (R111) -/

/-- A word that carries an integer keeps it modulo every power of two up to `2^32`. -/
theorem toNat_ofInt_mod_two_pow (k : Int) {m : Nat} (hm : m ≤ 32) :
    (((BitVec.ofInt 32 k).toNat % 2 ^ m : Nat) : Int) = k % 2 ^ m := by
  have hdvd : (2 : Int) ^ m ∣ 2 ^ 32 := pow_dvd_pow 2 hm
  have hcast : (((BitVec.ofInt 32 k).toNat : Nat) : Int) = k % 2 ^ 32 := by
    rw [BitVec.toNat_ofInt]
    exact Int.toNat_of_nonneg (Int.emod_nonneg k (by decide))
  push_cast
  rw [hcast, Int.emod_emod_of_dvd k hdvd]

/-- A remainder modulo `2 * h` whose upper half is read as negative gives back every integer from `-h` up to `h`. -/
theorem signedReading_of_emod {h k x : Int} (hx : x = k % (2 * h)) (hlo : -h ≤ k) (hhi : k < h) :
    (if h ≤ x then x - 2 * h else x) = k := by
  rcases lt_or_ge k 0 with hneg | hpos
  · have hwrap : x = k + 2 * h := by
      rw [hx, ← Int.add_emod_right]
      exact Int.emod_eq_of_lt (by omega) (by omega)
    rw [if_pos (by omega)]
    omega
  · have hsame : x = k := by rw [hx, Int.emod_eq_of_lt hpos (by omega)]
    rw [if_neg (by omega), hsame]

theorem byteWidth_bits (ty : NumericType) : 0 < 8 * byteWidth ty ∧ 8 * byteWidth ty ≤ 32 := by
  cases ty <;> decide

/-- The signed reading of an `m`-bit sum, in the words of R111. -/
theorem signedReading_of_emod_two_pow {m n : Nat} {k : Int} (hm : 0 < m) (hn : (n : Int) = k % 2 ^ m)
    (hlo : -(2 ^ (m - 1)) ≤ k) (hhi : k < 2 ^ (m - 1)) :
    (if 2 ^ (m - 1) ≤ n then (n : Int) - 2 ^ m else (n : Int)) = k := by
  have hdouble : (2 : Int) ^ m = 2 * 2 ^ (m - 1) := (mul_pow_sub_one hm.ne' 2).symm
  have hcond : 2 ^ (m - 1) ≤ n ↔ (2 : Int) ^ (m - 1) ≤ n := by norm_cast
  rw [hdouble] at hn ⊢
  simp only [hcond]
  exact signedReading_of_emod hn hlo hhi

/-- Settles O18: the sum of the wire bytes is `k` modulo `2^(8w)` (`leSum_wireBytes`, `toNat_ofInt_mod_two_pow`), and the
signed reading undoes the wrap for `k` in range. -/
theorem nencCarriesIntegersAsTwosComplement : Obligations.NencCarriesIntegersAsTwosComplement := by
  intro ty k s
  obtain ⟨hpos, hle⟩ := byteWidth_bits ty
  have hsum : (leSum (wireBytes ty (BitVec.ofInt 32 k)) : Int) = k % 2 ^ (8 * byteWidth ty) := by
    rw [leSum_wireBytes, toNat_ofInt_mod_two_pow k hle]
  exact ⟨_, exec_nenc ty _ s, hsum, signedReading_of_emod_two_pow hpos hsum⟩

end Sys2Proof.Machine
end

section
/-! PROOFS. The checksum unit (spec/41_checksum.md): the accumulator's value, its independence of the order of the bytes,
and what `CHKAPP` answers. -/

namespace Sys2Proof.Machine

open Sys2Proof.Claims

/-! ### The checksum as an accumulator (R120) -/

/-- An accumulator that starts at 0xFF ends as the complemented exclusive OR. -/
theorem checksum_eq_xorAll (b : Bytes) : checksum b = xorAll b ^^^ 0xFF := by
  rw [checksum, xorAll_eq_foldl, BitVec.xor_comm]

/-- XOR is associative and commutative, so the bytes may be accumulated in any order. -/
theorem checksum_perm {p b : Bytes} (h : p.Perm b) : checksum p = checksum b := h.foldl_eq 0xFF

/-- The claims' message with its checksum is the model's `Chk`. -/
theorem sealed_eq_chk (b : Bytes) : sealed b = chk b := by
  rw [sealed, checksum_eq_xorAll]
  rfl

/-- What already ends in its checksum gets 0x00 as a second one: the first made its exclusive OR 0xFF (R121). -/
theorem checksum_sealed (b : Bytes) : checksum (sealed b) = 0x00 := by
  rw [checksum_eq_xorAll, sealed_eq_chk, xorAll_chk]
  exact BitVec.xor_self

/-! ### What CHKAPP answers (R121) -/

theorem exec_chkapp (b : Bytes) (s : State) :
    exec (.chkapp b) s = .next (answered s (.bytes (sealed b))) := by
  rw [sealed_eq_chk, ← respond_eq_answered]
  rfl

/-- Settles O19: CHKAPP answers `sealed b` (`exec_chkapp`), whose last byte is that of every permutation (`checksum_perm`),
the complemented exclusive OR (`checksum_eq_xorAll`), and 0x00 the second time (`checksum_sealed`). -/
theorem chkappAppendsTheChecksum : Obligations.ChkappAppendsTheChecksum := by
  intro b s
  refine ⟨fun p hp => ?_, ?_, exec_chkapp [] s, ?_, rfl⟩
  · rw [checksum_perm hp]
    exact exec_chkapp b s
  · have hxor : checksum b = b.foldr (fun x acc => x ^^^ acc) 0 ^^^ 0xFF := checksum_eq_xorAll b
    rw [← hxor]
    exact exec_chkapp b s
  · rw [← checksum_sealed b]
    exact exec_chkapp (sealed b) s

/-- Settles O20: the answer of `exec_chkapp` is `chk b`, whose length and exclusive OR are `chk_length` and
`xorAll_chk`. -/
theorem chkappAnswerXorsToFF : Obligations.ChkappAnswerXorsToFF := by
  intro b s
  refine ⟨sealed b, exec_chkapp b s, ?_, ?_⟩
  · rw [sealed_eq_chk, chk_length]
  · rw [xorAll_eq_foldl, sealed_eq_chk, xorAll_chk]
    exact BitVec.zero_xor

end Sys2Proof.Machine
end

section
/-! PROOFS. The length-class unit (spec/42_length_class.md): what its four queries answer, the two roundings by their
bounds, and when an array loses elements. -/

namespace Sys2Proof.Machine

open Sys2Proof.Claims

/-! ### What the four queries answer (R132, R135, R138, R140) -/

theorem exec_lcscalar (ty : NumericType) (s : State) :
    exec (.lcscalar (some ty)) s = .next (answered s (.number (flog2 (widthTable ty)))) := rfl

theorem exec_lcarray (ty : NumericType) {n : BitVec 16} (hn : n ≠ 0) (s : State) :
    exec (.lcarray (some ty) n) s = .next (answered s
      (.pair (lcArray (widthTable ty) n.toNat) (keep (widthTable ty) n.toNat))) := by
  simp only [exec, execLcarray, width_some, if_neg hn, query_ok, respond_eq_answered]

theorem exec_lcarray_zero (ty : NumericType) (s : State) :
    exec (.lcarray (some ty) 0) s = .next (failed s 4) := rfl

theorem exec_lctext (n : BitVec 16) (s : State) :
    exec (.lctext n) s = .next (answered s (.number (lcText n.toNat))) := rfl

theorem exec_lcvalid (exp : Byte) (n : BitVec 16) (s : State) :
    exec (.lcvalid exp n) s =
      .next (answered s (.number (if lcValid exp.toNat n.toNat then 1 else 0))) := rfl

/-! ### Scalars (R131) -/

/-- Settles O21: LCSCALAR answers the logarithm of the width (`exec_lcscalar`), and every width is the power of two of
its logarithm; selector 7 raises (`exec_invalidType`). -/
theorem lcscalarRespondsWithLogOfWidth : Obligations.LcscalarRespondsWithLogOfWidth := by
  refine fun s => ⟨fun ty => ⟨_, exec_lcscalar ty s, ?_⟩, exec_invalidType rfl s, fun _ => rfl⟩
  rw [byteWidth_eq_widthTable, ← widthTable_eq_two_pow]

/-! ### Arrays (R133, R134) -/

/-- An array of `n ≥ 1` elements holds at least one byte. -/
theorem widthTable_mul_ne_zero (ty : NumericType) {n : Nat} (hn : n ≠ 0) : widthTable ty * n ≠ 0 :=
  Nat.mul_ne_zero (widthTable_pos ty).ne' hn

/-- `LcArray` is the rounded-down, capped exponent (R133). -/
theorem arrayExp_lcArray {w n : Nat} (h : w * n ≠ 0) : arrayExp (w * n) (lcArray w n) :=
  ⟨lcArray_le w n, two_pow_lcArray_le h, lcArray_eq_four_or_lt w n⟩

theorem keep_of_lt {w n : Nat} (h : 2 ^ lcArray w n < w * n) : keep w n = 2 ^ lcArray w n / w :=
  if_pos h

theorem keep_of_le {w n : Nat} (h : w * n ≤ 2 ^ lcArray w n) : keep w n = n :=
  if_neg h.not_gt

/-- Settles O22: LCARRAY answers `LcArray` and `Keep` (`exec_lcarray`), which are the claims' exponent
(`arrayExp_lcArray`) and, by the two cases of `Keep`, the claims' count. -/
theorem lcarrayRoundsDownAndCountsKept : Obligations.LcarrayRoundsDownAndCountsKept := by
  intro n s
  refine ⟨fun ty hn => ⟨_, _, exec_lcarray ty hn s, ?_⟩, fun ty => exec_lcarray_zero ty s,
    exec_invalidType rfl s, fun _ => rfl⟩
  have hbytes := widthTable_mul_ne_zero ty (BitVec.toNat_ne_iff_ne.mpr hn)
  rw [byteWidth_eq_widthTable]
  exact ⟨arrayExp_lcArray hbytes, keep_of_lt, keep_of_le⟩

/-! ### The kept elements (R141) -/

theorem keep_pos (ty : NumericType) {n : Nat} (hn : n ≠ 0) : 0 < keep (widthTable ty) n :=
  Nat.pos_of_mul_pos_right (keep_mul_width ty hn ▸ Nat.two_pow_pos _)

theorem keep_le_sixteen (ty : NumericType) {n : Nat} (hn : n ≠ 0) : keep (widthTable ty) n ≤ 16 :=
  calc keep (widthTable ty) n
      ≤ keep (widthTable ty) n * widthTable ty := Nat.le_mul_of_pos_right _ (widthTable_pos ty)
    _ = 2 ^ lcArray (widthTable ty) n := keep_mul_width ty hn
    _ ≤ 2 ^ 4 := Nat.pow_le_pow_right (by decide) (lcArray_le _ _)

/-- An array of one element is kept whole (R141 c). -/
theorem keep_one (ty : NumericType) : keep (widthTable ty) 1 = 1 :=
  Nat.le_antisymm (keep_le ty one_ne_zero) (keep_pos ty one_ne_zero)

/-- An array of one element has the class of the scalar, which is below the cap (R141 c). -/
theorem lcArray_one (ty : NumericType) : lcArray (widthTable ty) 1 = flog2 (widthTable ty) := by
  rw [lcArray, Nat.mul_one]
  exact Nat.min_eq_left (le_trans (flog2_widthTable_le ty) (by decide))

/-- The class holds all bytes exactly when their number is a power of two up to 16. -/
theorem two_pow_lcArray_eq_iff (w n : Nat) :
    2 ^ lcArray w n = w * n ↔ (∃ j, w * n = 2 ^ j) ∧ w * n ≤ 16 := by
  constructor
  · intro h
    have hcap : 2 ^ lcArray w n ≤ 2 ^ 4 := Nat.pow_le_pow_right (by decide) (lcArray_le w n)
    exact ⟨⟨_, h.symm⟩, h ▸ hcap⟩
  · rintro ⟨⟨j, hj⟩, hle⟩
    have hj4 : j ≤ 4 := (Nat.pow_le_pow_iff_right (by decide)).mp (hj ▸ hle : 2 ^ j ≤ 2 ^ 4)
    rw [lcArray, hj, flog2_two_pow, config_expMax, Nat.min_eq_left hj4]

/-- Elements are dropped exactly when bytes are: the kept elements fill the class (`keep_mul_width`). -/
theorem keep_lt_iff (ty : NumericType) {n : Nat} (hn : n ≠ 0) :
    keep (widthTable ty) n < n ↔ 2 ^ lcArray (widthTable ty) n < widthTable ty * n := by
  rw [← keep_mul_width ty hn, Nat.mul_comm (widthTable ty), Nat.mul_lt_mul_right (widthTable_pos ty)]

/-- R141 (e). -/
theorem keep_lt_iff_no_two_pow_or_gt (ty : NumericType) {n : Nat} (hn : n ≠ 0) :
    keep (widthTable ty) n < n ↔
      (¬ ∃ j, widthTable ty * n = 2 ^ j) ∨ 16 < widthTable ty * n := by
  rw [keep_lt_iff ty hn, (two_pow_lcArray_le (widthTable_mul_ne_zero ty hn)).lt_iff_ne, Ne,
    two_pow_lcArray_eq_iff, not_and_or, Nat.not_le]

/-- Settles O23: the pair of `exec_lcarray` fills the class (`keep_mul_width`), `Keep` is within its bounds, one element
is the scalar, and `keep_lt_iff_no_two_pow_or_gt` says when elements are dropped. -/
theorem lcarrayAnswerFillsTheLengthClass : Obligations.LcarrayAnswerFillsTheLengthClass := by
  intro ty n s hn
  have hn' : n.toNat ≠ 0 := BitVec.toNat_ne_iff_ne.mpr hn
  refine ⟨_, _, exec_lcarray ty hn s, ?_⟩
  rw [byteWidth_eq_widthTable]
  refine ⟨keep_mul_width ty hn', keep_pos ty hn', keep_le_sixteen ty hn', keep_le ty hn', ?_,
    keep_lt_iff_no_two_pow_or_gt ty hn'⟩
  rintro rfl
  exact ⟨keep_one ty, lcArray_one ty ▸ exec_lcscalar ty s⟩

/-! ### Texts (R136) -/

/-- `LcText` is the rounded-up exponent (R136). -/
theorem leastExp_lcText (n : Nat) : leastExp n (lcText n) :=
  ⟨le_two_pow_clog2 n, fun _ => clog2_le_iff.mpr⟩

/-- Settles O24: LCTEXT answers `LcText` (`exec_lctext`), the least exponent; it is at most 16, because `2^16` covers
every 16-bit count. -/
theorem lctextRoundsUp : Obligations.LctextRoundsUp := fun n s =>
  ⟨⟨_, exec_lctext n s, leastExp_lcText n.toNat, clog2_le_iff.mpr n.isLt.le⟩, rfl⟩

/-! ### The validator (R139) -/

/-- The validator accepts the five pairs of R139. -/
theorem lcValid_iff_mem {exp n : Nat} :
    lcValid exp n = true ↔ (exp, n) ∈ [(0, 1), (1, 2), (2, 4), (3, 8), (4, 16)] := by
  rw [lcValid_iff]
  constructor
  · rintro ⟨he, rfl⟩
    interval_cases exp <;> decide
  · intro h
    simp only [List.mem_cons, Prod.mk.injEq, List.not_mem_nil, or_false] at h
    rcases h with ⟨rfl, rfl⟩ | ⟨rfl, rfl⟩ | ⟨rfl, rfl⟩ | ⟨rfl, rfl⟩ | ⟨rfl, rfl⟩ <;> decide

/-- Settles O25: LCVALID answers the validator's verdict (`exec_lcvalid`), which `lcValid_iff_mem` says as a list. -/
theorem lcvalidAcceptsTheFivePairs : Obligations.LcvalidAcceptsTheFivePairs := by
  intro exp n s
  refine ⟨?_, rfl⟩
  simp only [exec_lcvalid, lcValid_iff_mem]

end Sys2Proof.Machine
end

section
/-! PROOFS. The header bit-pack and the framer (spec/43_framer.md): what `HDRPACK` and `FRAME` answer, how the fields of
a header read back, and the framer as a composition of the two queries before it. -/

namespace Sys2Proof.Machine

open Sys2Proof.Claims

/-! ### What the two operations do (R150 to R152) -/

/-- The claims' state after a write is the model's. -/
theorem sinkWrite_respond_eq_written (s : State) (m : Bytes) :
    (s.sinkWrite m).respond none = written s m := rfl

/-- With the exponent given as a byte, the header is the bitwise OR of R62. -/
theorem headerByte_toNat (cb exp idx : Byte) :
    headerByte cb exp.toNat idx = cb ||| exp <<< 3 ||| idx := by
  rw [headerByte, BitVec.ofNat_toNat, BitVec.setWidth_eq]

/-- `HDRPACK` is the query of `Hdr` (R151). -/
theorem exec_hdrpack (cb exp idx : Byte) (s : State) :
    exec (.hdrpack cb exp idx) s = query ((hdr cb exp.toNat idx).map .byte) s := rfl

/-- `FRAME` emits `Frame` (R152). -/
theorem exec_frame (cb exp idx : Byte) (sub : Option Byte) (data : Bytes) (s : State) :
    exec (.frame cb exp idx sub data) s = emit (frame cb exp.toNat idx sub data) s := rfl

theorem exec_hdrpack_ok {cb exp idx : Byte} (hi : idx.toNat ≤ 7) (he : exp.toNat ≤ 4) (s : State) :
    exec (.hdrpack cb exp idx) s = .next (answered s (.byte (cb ||| exp <<< 3 ||| idx))) := by
  rw [exec_hdrpack, hdr_ok hi he, headerByte_toNat, ← respond_eq_answered]
  rfl

theorem exec_frame_ok {cb exp idx : Byte} {sub : Option Byte} {data : Bytes} (hi : idx.toNat ≤ 7)
    (he : exp.toNat ≤ 4) (hl : data.length = 2 ^ exp.toNat) (s : State) :
    exec (.frame cb exp idx sub data) s =
      .next (written s (sealed ([cb ||| exp <<< 3 ||| idx] ++ sub.toList ++ data))) := by
  rw [exec_frame, frame_ok hi he hl, emit_ok, headerByte_toNat, sinkWrite_respond_eq_written,
    sealed_eq_chk]

/-- Settles O26: the three clauses are the three answers of `Hdr` (`hdr_badIndex`, `hdr_badExp`, `exec_hdrpack_ok`). -/
theorem hdrpackOrsTheFields : Obligations.HdrpackOrsTheFields := by
  refine fun cb exp idx s => ⟨fun hi => ?_, fun hi he => ?_, fun hi he => exec_hdrpack_ok hi he s, rfl⟩
  · rw [exec_hdrpack, hdr_badIndex hi]
    rfl
  · rw [exec_hdrpack, hdr_badExp hi he]
    rfl

/-- Settles O29: the three clauses are the three answers of `Frame` (`frame_badIndex`, `frame_badLength`,
`exec_frame_ok`). -/
theorem frameWritesOneMessageOrFails : Obligations.FrameWritesOneMessageOrFails := by
  refine fun cb exp idx sub data s =>
    ⟨fun hi => ?_, fun hi hbad => ?_, fun hi he hl => exec_frame_ok hi he hl s, rfl⟩
  · rw [exec_frame, frame_badIndex hi]
    rfl
  · have hinvalid : ¬(exp.toNat ≤ 4 ∧ data.length = 2 ^ exp.toNat) := by omega
    rw [exec_frame, frame_badLength hi hinvalid]
    rfl

/-! ### The fields of a header (R154, R155) -/

/-- A three-bit value read at bit 0: it fills the low three bits and reaches neither of the fields above. -/
theorem index_fields : ∀ idx : Byte, idx.toNat ≤ 7 →
    idx &&& (0x07 : Byte) = idx ∧ idx >>> 3 = 0#8 ∧ idx >>> 6 = 0#8 := by decide

/-- A three-bit value placed at bit 3: it is read back there and reaches neither the field below nor the one above. -/
theorem exponent_fields : ∀ exp : Byte, exp.toNat ≤ 7 →
    exp <<< 3 &&& (0x07 : Byte) = 0#8 ∧ exp <<< 3 >>> 3 &&& (0x07 : Byte) = exp ∧ exp <<< 3 >>> 6 = 0#8 := by decide

/-- A base with zero low six bits has nothing in the fields of the index and of the exponent. -/
theorem alignedBase_fields : ∀ cb : Byte, cb.extractLsb' 0 6 = 0 →
    cb &&& (0x07 : Byte) = 0#8 ∧ cb >>> 3 &&& (0x07 : Byte) = 0#8 := by decide

section

variable {cb exp idx : Byte} (hi : idx.toNat ≤ 7) (he : exp.toNat ≤ 7)
include hi he

/-- The index field reads as the index, ORed onto what the base has there. -/
theorem header_index : (cb ||| exp <<< 3 ||| idx) &&& (0x07 : Byte) = (cb &&& (0x07 : Byte)) ||| idx := by
  obtain ⟨hidx, -, -⟩ := index_fields idx hi
  obtain ⟨hexp, -, -⟩ := exponent_fields exp he
  rw [BitVec.and_or_distrib_right, BitVec.and_or_distrib_right, hidx, hexp, BitVec.or_zero]

/-- The exponent field reads as the exponent, ORed onto what the base has there. -/
theorem header_exponent :
    (cb ||| exp <<< 3 ||| idx) >>> 3 &&& (0x07 : Byte) = (cb >>> 3 &&& (0x07 : Byte)) ||| exp := by
  obtain ⟨-, hidx, -⟩ := index_fields idx hi
  obtain ⟨-, hexp, -⟩ := exponent_fields exp he
  rw [BitVec.ushiftRight_or_distrib, BitVec.ushiftRight_or_distrib, hidx, BitVec.or_zero,
    BitVec.and_or_distrib_right, hexp]

/-- The top two bits are the base's. -/
theorem header_base : (cb ||| exp <<< 3 ||| idx) >>> 6 = cb >>> 6 := by
  obtain ⟨-, -, hidx⟩ := index_fields idx hi
  obtain ⟨-, -, hexp⟩ := exponent_fields exp he
  rw [BitVec.ushiftRight_or_distrib, BitVec.ushiftRight_or_distrib, hidx, hexp, BitVec.or_zero,
    BitVec.or_zero]

end

/-- An OR keeps every 1 bit of its first operand. -/
theorem header_and_base (cb exp idx : Byte) : (cb ||| exp <<< 3 ||| idx) &&& cb = cb := by
  ext k hk
  simp only [BitVec.getElem_and, BitVec.getElem_or]
  cases cb[k] <;> simp

/-- Bits that the base has already are lost in the index (R155). -/
theorem header_or_base_bits {cb bits : Byte} (hcb : cb ||| bits = cb) (exp idx : Byte) :
    cb ||| exp <<< 3 ||| (idx ||| bits) = cb ||| exp <<< 3 ||| idx := by
  calc cb ||| exp <<< 3 ||| (idx ||| bits) = (cb ||| bits) ||| exp <<< 3 ||| idx := by ac_rfl
    _ = cb ||| exp <<< 3 ||| idx := by rw [hcb]

/-- Settles O27: the base of `alignedBase_fields` leaves both fields free, so they read back as they were put in
(`header_index`, `header_exponent`, `header_base`). -/
theorem headerUnpacksForAlignedBases : Obligations.HeaderUnpacksForAlignedBases := by
  intro cb exp idx s hi he hcb
  have he7 : exp.toNat ≤ 7 := by omega
  obtain ⟨hlow, hmid⟩ := alignedBase_fields cb hcb
  refine ⟨_, exec_hdrpack_ok hi he s, ?_, ?_, header_base hi he7⟩
  · rw [header_index hi he7, hlow, BitVec.zero_or]
  · rw [header_exponent hi he7, hmid, BitVec.zero_or]

/-- Or with 1 keeps a three-bit index a three-bit index. -/
theorem toNat_or_one_le : ∀ idx : Byte, idx.toNat ≤ 7 → (idx ||| 1).toNat ≤ 7 := by decide

/-- Settles O28: the OR keeps the base (`header_and_base`); base 0x51 has bit 0, so that bit of the index is lost
(`header_or_base_bits`), and its exponent field holds 2, so that exponent 2 reads back (`header_exponent`). -/
theorem headerKeepsBitsOfTheBase : Obligations.HeaderKeepsBitsOfTheBase := by
  refine ⟨fun cb exp idx s hi he => ⟨_, exec_hdrpack_ok hi he s, header_and_base cb exp idx⟩,
    fun idx s hi => ⟨_, exec_hdrpack_ok hi (by decide) s, ?_, ?_⟩⟩
  · rw [exec_hdrpack_ok (toNat_or_one_le idx hi) (by decide), header_or_base_bits (by decide)]
  · rw [header_exponent hi (by decide)]
    decide

/-! ### The framer composed of HDRPACK and CHKAPP (R152) -/

/-- Where `LCVALID` answers 1 for the length of the data, the length class is legal. -/
theorem lcValid_of_exec_lcvalid {exp : Byte} {n : Nat} {s : State} (hn : n < 2 ^ 16)
    (h : exec (.lcvalid exp (BitVec.ofNat 16 n)) s = .next (answered s (.number 1))) :
    exp.toNat ≤ 4 ∧ n = 2 ^ exp.toNat := by
  rw [exec_lcvalid, BitVec.toNat_ofNat, Nat.mod_eq_of_lt hn] at h
  split at h
  case isTrue hv => exact lcValid_iff.mp hv
  case isFalse => simp [answered] at h

/-- A header, a sub-id and the data of a legal length class fit the smallest command port (R5). -/
theorem body_wellFormed {exp : Nat} (he : exp ≤ 4) (h : Byte) (sub : Option Byte) {data : Bytes}
    (hl : data.length = 2 ^ exp) :
    Instr.wellFormed PortBounds.smallest (.chkapp ([h] ++ sub.toList ++ data)) = true := by
  have hdata : data.length ≤ 2 ^ 4 := hl ▸ Nat.pow_le_pow_right (by decide) he
  have hsub : sub.toList.length ≤ 1 := Option.length_toList_le
  simp only [Instr.wellFormed, PortBounds.smallest, List.length_append, List.length_singleton,
    decide_eq_true_iff]
  omega

/-- Settles O30: an answer 1 of LCVALID makes the length class legal (`lcValid_of_exec_lcvalid`), and then the three
operations answer as `exec_hdrpack_ok`, `exec_chkapp` and `exec_frame_ok` say, of one and the same body. -/
theorem frameIsChkappOfHeaderAndPayload : Obligations.FrameIsChkappOfHeaderAndPayload := by
  intro cb exp idx sub data s hi hlen hvalid
  obtain ⟨he, hl⟩ := lcValid_of_exec_lcvalid hlen hvalid
  exact ⟨_, _, exec_hdrpack_ok hi he s, exec_chkapp _ s, exec_frame_ok hi he hl s,
    body_wellFormed he _ sub hl⟩

end Sys2Proof.Machine
end

section
/-! PROOFS. The handshake messages (spec/44_handshake_messages.md): each writes one message of its literal header and its
operands, or, for `MODES` above 8, raises; and the count of views is that of the flags below the number of modes. -/

namespace Sys2Proof.Machine

open Sys2Proof.Claims

/-! ### TYPE, SPEED and VERSION (R170, R171, R173) -/

/-- Emitting a body with the model's checksum writes the claims' sealed message. -/
theorem emit_chk_eq_written (b : Bytes) (s : State) :
    emit (.ok (chk b)) s = .next (written s (sealed b)) := by
  rw [emit_ok, sinkWrite_respond_eq_written, sealed_eq_chk]

theorem exec_type (x : Byte) (s : State) :
    exec (.type x) s = .next (written s (sealed [0x40, x])) :=
  emit_chk_eq_written [0x40, x] s

theorem exec_speed (rate : Word) (s : State) :
    exec (.speed rate) s = .next (written s (sealed (0x52 :: le4 rate))) :=
  emit_chk_eq_written (0x52 :: le4 rate) s

theorem exec_version (hw sw : Word) (s : State) :
    exec (.version hw sw) s = .next (written s (sealed (0x5F :: (be4 hw ++ be4 sw)))) :=
  emit_chk_eq_written (0x5F :: (be4 hw ++ be4 sw)) s

/-- The message of two bytes, with R120's exclusive OR written out. -/
theorem sealed_pair (x y : Byte) : sealed [x, y] = [x, y, x ^^^ y ^^^ 0xFF] := by
  rw [sealed, checksum_eq_xorAll]
  simp [xorAll]

/-- Settles O31: `exec_type`, with the checksum of its two bytes written out (`sealed_pair`). -/
theorem typeWritesTheSensorType : Obligations.TypeWritesTheSensorType := fun x s =>
  ⟨by rw [exec_type, sealed_pair], rfl⟩

/-- Settles O32: `exec_speed`. -/
theorem speedWritesTheRateLittleEndian : Obligations.SpeedWritesTheRateLittleEndian := fun rate s =>
  ⟨exec_speed rate s, rfl⟩

/-- Settles O34: `exec_version`. -/
theorem versionWritesBigEndian : Obligations.VersionWritesBigEndian := fun hw sw s =>
  ⟨exec_version hw sw s, rfl⟩

/-! ### The two counts of MODES (R172) -/

/-- A count less one modulo 256 is the byte of the integer one below it, -1 at a count of 0. -/
theorem ofInt_sub_one_eq_countMinusOne (n : Nat) :
    BitVec.ofInt 8 ((n : Int) - 1) = countMinusOne n := by
  rw [countMinusOne, BitVec.sub_eq_add_neg, Int.sub_eq_add_neg, BitVec.ofInt_add, BitVec.ofInt_natCast]
  rfl

/-- Bit `k` of R172's mask `2^n - 1` is set exactly below `n`. -/
theorem getLsbD_mask {n k : Nat} (hk : k < 8) :
    (BitVec.ofNat 8 (2 ^ n - 1)).getLsbD k = decide (k < n) := by
  rw [BitVec.getLsbD_ofNat, decide_eq_true hk, Bool.true_and, Nat.testBit_two_pow_sub_one]

/-- The masked population count is the number of flags set among the first `modeCount`. -/
theorem viewCount_eq_length_filter {modeCount : Byte} (hc : modeCount.toNat ≤ 8) (viewFlags : Byte) :
    viewCount modeCount viewFlags =
      ((List.range modeCount.toNat).filter fun i => viewFlags.getLsbD i).length := by
  have hmask : ∀ k ∈ List.range 8,
      (viewFlags &&& BitVec.ofNat 8 (2 ^ modeCount.toNat - 1)).getLsbD k = true ↔
        (viewFlags.getLsbD k && decide (k < modeCount.toNat)) = true := fun k hk => by
    rw [BitVec.getLsbD_and, getLsbD_mask (List.mem_range.mp hk)]
  have hbelow : (List.range 8).filter (· < modeCount.toNat) = List.range modeCount.toNat := by
    rw [← List.Ico.zero_bot, List.Ico.filter_lt, Nat.min_eq_right hc, List.Ico.zero_bot]
  rw [viewCount, popcount, List.countP_congr hmask, ← List.countP_filter, hbelow,
    List.countP_eq_length_filter]

theorem exec_modes_tooMany {modeCount : Byte} (hc : 8 < modeCount.toNat) (viewFlags : Byte) (s : State) :
    exec (.modes modeCount viewFlags) s = .next (failed s 3) :=
  if_pos hc

theorem exec_modes_ok {modeCount : Byte} (hc : modeCount.toNat ≤ 8) (viewFlags : Byte) (s : State) :
    exec (.modes modeCount viewFlags) s = .next (written s (sealed
      [0x49, countMinusOne modeCount.toNat, countMinusOne (viewCount modeCount viewFlags)])) :=
  (if_neg (Nat.not_lt.mpr hc)).trans (emit_chk_eq_written _ s)

/-- Settles O33: above 8 modes `exec_modes_tooMany`; up to 8 `exec_modes_ok`, whose two bytes are the counts of the
statement (`viewCount_eq_length_filter`), each less one (`ofInt_sub_one_eq_countMinusOne`). -/
theorem modesWritesCountsLessOne : Obligations.ModesWritesCountsLessOne := by
  refine fun modeCount viewFlags s => ⟨fun hc => exec_modes_tooMany hc viewFlags s, fun hc => ?_, rfl⟩
  rw [exec_modes_ok hc, viewCount_eq_length_filter hc, ofInt_sub_one_eq_countMinusOne,
    ofInt_sub_one_eq_countMinusOne]

end Sys2Proof.Machine
end

section
/-! PROOFS. The mode-descriptor messages (spec/45_mode_descriptor_messages.md): each is a framed message, so it raises for
an index above 7, raises for data that fill no length class, and else writes its header, its sub-id and its data. -/

namespace Sys2Proof.Machine

open Sys2Proof.Claims

/-! ### Emitting a framed message (R152) -/

theorem emit_frame_badIndex {idx : Byte} (hi : 7 < idx.toNat) (cb : Byte) (exp : Nat)
    (sub : Option Byte) (data : Bytes) (s : State) :
    emit (frame cb exp idx sub data) s = .next (failed s 2) := by
  rw [frame_badIndex hi, emit_error, raise_eq_failed]
  rfl

theorem emit_frame_badLength {idx : Byte} {exp : Nat} {data : Bytes} (hi : idx.toNat ≤ 7)
    (hbad : ¬(exp ≤ 4 ∧ data.length = 2 ^ exp)) (cb : Byte) (sub : Option Byte) (s : State) :
    emit (frame cb exp idx sub data) s = .next (failed s 4) := by
  rw [frame_badLength hi hbad, emit_error, raise_eq_failed]
  rfl

theorem emit_frame_ok {idx : Byte} {exp : Nat} {data : Bytes} (hi : idx.toNat ≤ 7) (he : exp ≤ 4)
    (hl : data.length = 2 ^ exp) (cb : Byte) (sub : Option Byte) (s : State) :
    emit (frame cb exp idx sub data) s =
      .next (written s (sealed ([headerByte cb exp idx] ++ sub.toList ++ data))) := by
  rw [frame_ok hi he hl, emit_chk_eq_written]

/-! ### Texts: NAME and UNITS (R190, R194) -/

theorem emit_textMessage_badIndex {idx : Byte} (hi : 7 < idx.toNat) (sub : Byte) (text : Bytes)
    (s : State) : emit (textMessage sub idx text) s = .next (failed s 2) :=
  emit_frame_badIndex hi _ _ _ _ s

/-- The class of a text over 16 bytes is above 4 (`lcText_le_four_iff`). -/
theorem emit_textMessage_tooLong {idx : Byte} {text : Bytes} (hi : idx.toNat ≤ 7)
    (hlen : 16 < text.length) (sub : Byte) (s : State) :
    emit (textMessage sub idx text) s = .next (failed s 4) :=
  emit_frame_badLength hi (fun ⟨hclass, _⟩ => hlen.not_ge ((lcText_le_four_iff _).mp hclass))
    _ _ s

/-- A text of at most 16 bytes is padded to its class, `LcText`, and so fills it (`pad_length`). -/
theorem emit_textMessage_ok {idx : Byte} {text : Bytes} (hi : idx.toNat ≤ 7)
    (hlen : text.length ≤ 16) (sub : Byte) (s : State) :
    ∃ k, leastExp text.length k ∧ emit (textMessage sub idx text) s = .next (written s (sealed
      ([0x80 ||| BitVec.ofNat 8 k <<< 3 ||| idx, sub] ++ text ++
        List.replicate (2 ^ k - text.length) 0x00))) := by
  refine ⟨lcText text.length, leastExp_lcText text.length, ?_⟩
  rw [textMessage, emit_frame_ok hi ((lcText_le_four_iff _).mpr hlen) (pad_length text)]
  rfl

/-- Settles O35: `NAME` emits the text message under sub-id 0x00. -/
theorem nameWritesPaddedText : Obligations.NameWritesPaddedText := fun _ text s =>
  ⟨fun hi => emit_textMessage_badIndex hi _ text s, fun hi hlen => emit_textMessage_tooLong hi hlen _ s,
    fun hi hlen => emit_textMessage_ok hi hlen 0x00 s, rfl⟩

/-- Settles O36: `UNITS` emits the text message under sub-id 0x04. -/
theorem unitsWritesPaddedText : Obligations.UnitsWritesPaddedText := fun _ text s =>
  ⟨fun hi => emit_textMessage_badIndex hi _ text s, fun hi hlen => emit_textMessage_tooLong hi hlen _ s,
    fun hi hlen => emit_textMessage_ok hi hlen 0x04 s, rfl⟩

/-! ### Ranges: RAW, PCT and SI (R191 to R193, R198) -/

theorem emit_rangeMessage_badIndex {idx : Byte} (hi : 7 < idx.toNat) (sub : Byte) (min max : Word)
    (s : State) : emit (rangeMessage sub idx min max) s = .next (failed s 2) :=
  emit_frame_badIndex hi _ _ _ _ s

theorem emit_rangeMessage_ok {idx : Byte} (hi : idx.toNat ≤ 7) (sub : Byte) (min max : Word)
    (s : State) : emit (rangeMessage sub idx min max) s =
      .next (written s (sealed ([0x98 ||| idx, sub] ++ le4 min ++ le4 max))) :=
  emit_frame_ok hi (by decide) rfl config.cbInfo (some sub) s

/-- Settles O37: the three operations emit the range message under the sub-ids 1, 2 and 3. -/
theorem rangesWriteMinimumThenMaximum : Obligations.RangesWriteMinimumThenMaximum := by
  refine fun idx min max s => ⟨fun hi => ?_, fun hi => ?_, rfl, rfl, rfl⟩
  · have hbad := fun sub => emit_rangeMessage_badIndex hi sub min max s
    exact ⟨hbad config.subRaw, hbad config.subPct, hbad config.subSi⟩
  · have hok := fun sub => emit_rangeMessage_ok hi sub min max s
    exact ⟨hok 0x01, hok 0x02, hok 0x03⟩

/-! ### MAPPING (R195) -/

theorem exec_mapping_ok {idx : Byte} (hi : idx.toNat ≤ 7) (mapIn mapOut : Byte) (s : State) :
    exec (.mapping idx mapIn mapOut) s =
      .next (written s (sealed [0x88 ||| idx, 0x05, mapIn, mapOut])) :=
  emit_frame_ok hi (by decide) rfl config.cbInfo (some config.subMapping) s

/-- Settles O38: the two answers of the framed message (`emit_frame_badIndex`, `exec_mapping_ok`). -/
theorem mappingWritesInputTagFirst : Obligations.MappingWritesInputTagFirst :=
  fun _ mapIn mapOut s =>
    ⟨fun hi => emit_frame_badIndex hi _ _ _ _ s, fun hi => exec_mapping_ok hi mapIn mapOut s, rfl⟩

/-! ### FORMAT (R196, R199) -/

theorem exec_format_ok {idx : Byte} (hi : idx.toNat ≤ 7) (a b c d : Word) (s : State) :
    exec (.format idx a b c d) s = .next (written s (sealed
      [0x51 ||| idx, 0x80, lowByte a, lowByte b, lowByte c, lowByte d])) :=
  emit_frame_ok hi (by decide) rfl config.cbFormat (some config.subFormat) s

/-- The low byte of a word is the word masked with 0xFF (R76 f). -/
theorem ofNat_and_ff_eq_lowByte (v : Word) : BitVec.ofNat 8 (v &&& 0xFF).toNat = lowByte v := by
  have hmask : (v &&& 0xFF).toNat = v.toNat % 2 ^ 8 := by
    rw [BitVec.toNat_and]
    exact Nat.and_two_pow_sub_one_eq_mod v.toNat 8
  apply BitVec.eq_of_toNat_eq
  rw [BitVec.toNat_ofNat, hmask, lowByte, BitVec.toNat_setWidth, Nat.mod_mod]

/-- Settles O39: `exec_format_ok`, its low bytes read as masks (`ofNat_and_ff_eq_lowByte`). -/
theorem formatWritesLowBytes : Obligations.FormatWritesLowBytes := by
  refine fun idx a b c d s => ⟨fun hi => emit_frame_badIndex hi _ _ _ _ s, fun hi => ?_, rfl⟩
  simp only [ofNat_and_ff_eq_lowByte]
  exact exec_format_ok hi a b c d s

/-- Both indices of a pair are legal and give the header `0x51 + 2j`: bit 0 of the index falls on a 1 of 0x51 (R199). -/
theorem formatHeader_indexPair : ∀ j ≤ 3, ∀ idx ∈ [BitVec.ofNat 8 (2 * j), BitVec.ofNat 8 (2 * j + 1)],
    idx.toNat ≤ 7 ∧ 0x51 ||| idx = BitVec.ofNat 8 (0x51 + 2 * j) := by decide

/-- Settles O40: with either index of the pair, `FORMAT` writes what follows from the one header of
`formatHeader_indexPair`, the checksum included. -/
theorem formatHeaderLosesBitZeroOfIndex : Obligations.FormatHeaderLosesBitZeroOfIndex := by
  intro j a b c d s hj
  have hpair : ∀ idx ∈ [BitVec.ofNat 8 (2 * j), BitVec.ofNat 8 (2 * j + 1)],
      exec (.format idx a b c d) s = .next (written s (sealed
        [BitVec.ofNat 8 (0x51 + 2 * j), 0x80, lowByte a, lowByte b, lowByte c, lowByte d])) := by
    intro idx hmem
    obtain ⟨hi, hheader⟩ := formatHeader_indexPair j hj idx hmem
    rw [exec_format_ok hi, hheader]
  exact ⟨_, hpair _ (by simp), hpair _ (by simp)⟩

end Sys2Proof.Machine
end

section
/-! PROOFS. The data messages (spec/46_data_telegram.md): `DATAS` frames one element, `DATAA` the leading elements that
fill the rounded-down length class, and the elements it drops have no part in the message. -/

namespace Sys2Proof.Machine

open Sys2Proof.Claims

/-! ### DATAS (R220) -/

theorem exec_datas (ty : NumericType) (idx : Byte) (v : Word) (s : State) :
    exec (.datas (some ty) idx v) s = emit (frame config.cbData (flog2 (widthTable ty)) idx none
      (leBytes (widthTable ty) v)) s := rfl

/-- Every type's bytes fill its length class, so that a legal index is all `DATAS` needs. -/
theorem exec_datas_ok {idx : Byte} (hi : idx.toNat ≤ 7) (ty : NumericType) (v : Word) (s : State) :
    exec (.datas (some ty) idx v) s = .next (written s (sealed
      (headerByte 0xC0 (flog2 (widthTable ty)) idx :: leBytes (widthTable ty) v))) := by
  have hexp : flog2 (widthTable ty) ≤ 4 := (flog2_widthTable_le ty).trans (by decide)
  have hlen : (leBytes (widthTable ty) v).length = 2 ^ flog2 (widthTable ty) := by
    rw [leBytes_length, ← widthTable_eq_two_pow]
  exact emit_frame_ok hi hexp hlen config.cbData none s

/-- `exec_datas_ok` at the types of one width. -/
theorem exec_datas_of_byteWidth {ty : NumericType} {w : Nat} (hw : byteWidth ty = w) {idx : Byte}
    (hi : idx.toNat ≤ 7) (v : Word) (s : State) :
    exec (.datas (some ty) idx v) s =
      .next (written s (sealed (headerByte 0xC0 (flog2 w) idx :: leBytes w v))) := by
  rw [exec_datas_ok hi, ← byteWidth_eq_widthTable, hw]

/-- Settles O41: selector 7 raises first (`exec_invalidType`), then a bad index (`emit_frame_badIndex`); each width has
its header and its bytes (`exec_datas_of_byteWidth`). -/
theorem datasWritesTheScalar : Obligations.DatasWritesTheScalar := fun _ v s =>
  ⟨exec_invalidType rfl s, fun hi _ => emit_frame_badIndex hi _ _ _ _ s, fun hi =>
    ⟨fun _ hw => exec_datas_of_byteWidth hw hi v s, fun _ hw => exec_datas_of_byteWidth hw hi v s,
      fun _ hw => exec_datas_of_byteWidth hw hi v s⟩, fun _ => rfl⟩

/-! ### DATAA (R221, R224, R225) -/

theorem exec_dataa_badIndex {idx : Byte} (hi : 7 < idx.toNat) (ty : NumericType) (vs : List Word)
    (s : State) : exec (.dataa (some ty) idx vs) s = .next (failed s 2) :=
  if_pos hi

theorem exec_dataa_nil {idx : Byte} (hi : idx.toNat ≤ 7) (ty : NumericType) (s : State) :
    exec (.dataa (some ty) idx []) s = .next (failed s 4) :=
  if_neg (Nat.not_lt.mpr hi)

/-- A nonempty array is framed under its length class, whatever the index: `Frame` checks that too. -/
theorem exec_dataa_of_ne_nil {vs : List Word} (hvs : vs ≠ []) (ty : NumericType) (idx : Byte)
    (s : State) : exec (.dataa (some ty) idx vs) s = emit (frame config.cbData
      (lcArray (widthTable ty) vs.length) idx none (arrayData (widthTable ty) vs)) s := by
  rcases Nat.lt_or_ge 7 idx.toNat with hi | hi
  · rw [exec_dataa_badIndex hi, emit_frame_badIndex hi]
  · exact (if_neg (Nat.not_lt.mpr hi)).trans (if_neg (mt List.length_eq_zero_iff.mp hvs))

/-- The kept elements fill the class (`arrayData_length`), so that a nonempty array under a legal index is written. -/
theorem exec_dataa_ok {idx : Byte} {vs : List Word} (hi : idx.toNat ≤ 7) (hvs : vs ≠ [])
    (ty : NumericType) (s : State) :
    exec (.dataa (some ty) idx vs) s = .next (written s (sealed
      (headerByte 0xC0 (lcArray (widthTable ty) vs.length) idx :: arrayData (widthTable ty) vs))) := by
  have hlen := arrayData_length ty (mt List.length_eq_zero_iff.mp hvs)
  rw [exec_dataa_of_ne_nil hvs, emit_frame_ok hi (lcArray_le _ _) hlen]
  rfl

/-- The data bytes are the claims' wire bytes of the kept elements, in input order (R224). -/
theorem arrayData_eq_wireBytes (ty : NumericType) (vs : List Word) :
    arrayData (widthTable ty) vs =
      ((vs.take (keep (widthTable ty) vs.length)).map (wireBytes ty)).flatten := by
  rw [arrayData, List.flatMap_def, funext (wireBytes_eq_leBytes ty)]

/-- Settles O42: the checks in their order (`exec_invalidType`, `exec_dataa_badIndex`, `exec_dataa_nil`); then the message
of `exec_dataa_ok`, whose class and count are the claims' (`arrayExp_lcArray` and the two cases of `Keep`). -/
theorem dataaWritesLeadingElements : Obligations.DataaWritesLeadingElements := by
  refine fun idx vs s => ⟨exec_invalidType rfl s,
    fun ty => ⟨fun hi => exec_dataa_badIndex hi ty vs s, ?_, ?_⟩, fun _ => rfl⟩
  · rintro hi rfl
    exact exec_dataa_nil hi ty s
  · intro hi hvs
    have hbytes := widthTable_mul_ne_zero ty (mt List.length_eq_zero_iff.mp hvs)
    rw [byteWidth_eq_widthTable, exec_dataa_ok hi hvs, arrayData_eq_wireBytes]
    exact ⟨_, _, arrayExp_lcArray hbytes, keep_of_lt, keep_of_le, rfl⟩

/-! ### One element (R222) -/

/-- The data of a one-element array are the bytes of its element: it is kept (`keep_one`). -/
theorem arrayData_singleton (ty : NumericType) (v : Word) :
    arrayData (widthTable ty) [v] = leBytes (widthTable ty) v := by
  rw [arrayData, List.length_singleton, keep_one, List.take_succ_cons, List.take_zero,
    List.flatMap_singleton]

/-- Settles O43: without a type both raise; else both frame the same bytes (`arrayData_singleton`) under the same class
(`lcArray_one`). -/
theorem oneElementArrayIsTheScalar : Obligations.OneElementArrayIsTheScalar := by
  intro t idx v s
  rcases t with - | ty
  · rw [exec_invalidType rfl, exec_invalidType rfl]
  · rw [exec_dataa_of_ne_nil (List.cons_ne_nil v []), exec_datas, List.length_singleton, lcArray_one,
      arrayData_singleton]

/-! ### The dropped elements (R223, R285) -/

/-- What `LCARRAY` answers for a count that fits its operand. -/
theorem pair_of_exec_lcarray {ty : NumericType} {n e k : Nat} {s : State} (hpos : n ≠ 0) (hn : n < 2 ^ 16)
    (h : exec (.lcarray (some ty) (BitVec.ofNat 16 n)) s = .next (answered s (.pair e k))) :
    e = lcArray (widthTable ty) n ∧ k = keep (widthTable ty) n := by
  have hnat : (BitVec.ofNat 16 n).toNat = n := by rw [BitVec.toNat_ofNat, Nat.mod_eq_of_lt hn]
  have hne : BitVec.ofNat 16 n ≠ 0 := BitVec.toNat_ne_iff_ne.mp (hnat.trans_ne hpos)
  rw [exec_lcarray ty hne, hnat] at h
  simpa [answered, eq_comm] using h

section

variable (ty : NumericType) {n : Nat} (hn : n ≠ 0)
include hn

/-- The kept elements have the class of the whole array, which they fill. -/
theorem lcArray_keep : lcArray (widthTable ty) (keep (widthTable ty) n) = lcArray (widthTable ty) n := by
  rw [lcArray, Nat.mul_comm, keep_mul_width ty hn, flog2_two_pow, config_expMax,
    Nat.min_eq_left (lcArray_le _ n)]

/-- Of the kept elements, all are kept. -/
theorem keep_keep : keep (widthTable ty) (keep (widthTable ty) n) = keep (widthTable ty) n := by
  apply keep_of_le
  rw [lcArray_keep ty hn, Nat.mul_comm, keep_mul_width ty hn]

end

theorem length_take_keep (ty : NumericType) {vs : List Word} (h : vs.length ≠ 0) :
    (vs.take (keep (widthTable ty) vs.length)).length = keep (widthTable ty) vs.length := by
  rw [List.length_take, Nat.min_eq_left (keep_le ty h)]

/-- The data bytes are those of the kept elements alone. -/
theorem arrayData_take_keep (ty : NumericType) {vs : List Word} (h : vs.length ≠ 0) :
    arrayData (widthTable ty) (vs.take (keep (widthTable ty) vs.length)) =
      arrayData (widthTable ty) vs := by
  rw [arrayData, length_take_keep ty h, keep_keep ty h, List.take_take, Nat.min_self, arrayData]

/-- Settles O44: with `k` the number of kept elements (`pair_of_exec_lcarray`), the first `k` have the same class
(`lcArray_keep`) and the same data (`arrayData_take_keep`); the message is a header, `2^e` data bytes and a checksum. -/
theorem droppedElementsLeaveNoTrace : Obligations.DroppedElementsLeaveNoTrace := by
  intro ty idx vs s e k hi hvs hlt h
  have hpos : vs.length ≠ 0 := mt List.length_eq_zero_iff.mp hvs
  obtain ⟨rfl, rfl⟩ := pair_of_exec_lcarray hpos hlt h
  have hlen := length_take_keep ty hpos
  refine ⟨?_, _, exec_dataa_ok hi hvs ty s, ?_⟩
  · have htake : vs.take (keep (widthTable ty) vs.length) ≠ [] :=
      List.ne_nil_of_length_pos ((keep_pos ty hpos).trans_eq hlen.symm)
    rw [exec_dataa_of_ne_nil hvs, exec_dataa_of_ne_nil htake, hlen, lcArray_keep ty hpos,
      arrayData_take_keep ty hpos]
  · rw [sealed_eq_chk, chk_length, List.length_cons, arrayData_length ty hpos]

end Sys2Proof.Machine
end

section
/-! PROOFS. Running a sequence (spec/47_sequences.md R242): operations that write their messages are passed one after
another, and the first operation that raises ends the sequence. -/

namespace Sys2Proof.Machine

open Sys2Proof.Claims

/-- From every state, the operation succeeds and its one message is `m`. -/
def Writes (i : Instr) (m : Bytes) : Prop := ∀ s, exec i s = .next (written s m)

/-- A sequence goes on after an operation that writes. -/
theorem runSequence_cons_of_writes {i : Instr} {m : Bytes} (h : Writes i m) (rest : List Instr)
    (s : State) : runSequence (i :: rest) s = runSequence rest (written s m) := by
  rw [runSequence, h s]
  rfl

/-- A sequence stops at an operation that raises, whatever comes after it. -/
theorem runSequence_cons_of_failed {i : Instr} {s : State} {c : BitVec 3}
    (h : exec i s = .next (failed s c)) (hc : c ≠ 0) (rest : List Instr) :
    runSequence (i :: rest) s = .next (failed s c) := by
  have hlast : (failed s c).lastOk = false := decide_eq_false hc
  rw [runSequence, h]
  simp only [hlast, Bool.false_eq_true, if_false]

/-- A sequence passes operations that write, and goes on from the state with their messages. -/
theorem runSequence_append_of_writes {is : List Instr} {ms : List Bytes} (h : List.Forall₂ Writes is ms)
    (rest : List Instr) (s : State) :
    runSequence (is ++ rest) s = runSequence rest (ms.foldl written s) := by
  induction h generalizing s with
  | nil => rfl
  | cons hm _ ih => exact (runSequence_cons_of_writes hm _ s).trans (ih (written s _))

/-- Writing messages one by one is writing them all; each overwrites the response port with the same record. -/
theorem foldl_written_eq_writtenAll {ms : List Bytes} (hne : ms ≠ []) (s : State) :
    ms.foldl written s = writtenAll s ms := by
  induction ms using List.reverseRecOn with
  | nil => exact absurd rfl hne
  | append_singleton ms m ih =>
    rw [List.foldl_append]
    rcases eq_or_ne ms [] with rfl | hms
    · rfl
    · simp [ih hms, written, writtenAll]

/-- A sequence of operations that all write ends with all their messages. -/
theorem runSequence_of_writes {is : List Instr} {ms : List Bytes} (h : List.Forall₂ Writes is ms)
    (hne : ms ≠ []) (s : State) : runSequence is s = .next (writtenAll s ms) := by
  rw [← List.append_nil is, runSequence_append_of_writes h, foldl_written_eq_writtenAll hne]
  rfl

end Sys2Proof.Machine
end

section
/-! PROOFS. `SETUPMODE` (spec/47_sequences.md R240): each of its seven operations writes the message that the claims give
it, and the operation that an illegal operand makes raise is the first, or `UNITS`. -/

namespace Sys2Proof.Machine

open Sys2Proof.Claims

/-- For presentable texts, the claims' table of R136 is the model's rounded-up logarithm. -/
theorem lcText_eq_textExp : ∀ n ≤ 16, lcText n = textExp n := by decide

/-- Two least exponents are the same. -/
theorem leastExp_unique {n j k : Nat} (hj : leastExp n j) (hk : leastExp n k) : j = k :=
  Nat.le_antisymm (hj.2 k hk.1) (hk.2 j hj.1)

/-- The class that `emit_textMessage_ok` gives by its bounds is the one of the claims' table. -/
theorem emit_textMessage_eq_textMsg {idx : Byte} {text : Bytes} (hi : idx.toNat ≤ 7)
    (hlen : text.length ≤ 16) (sub : Byte) (s : State) :
    emit (textMessage sub idx text) s = .next (written s (textMsg idx sub text)) := by
  obtain ⟨k, hk, hemit⟩ := emit_textMessage_ok hi hlen sub s
  have hclass : k = textExp text.length :=
    (leastExp_unique hk (leastExp_lcText _)).trans (lcText_eq_textExp _ hlen)
  rw [hemit, hclass]
  rfl

/-- The first four operations of `SETUPMODE` need a legal index and a presentable name. -/
theorem writes_setupMode_take_four {idx : Byte} {m : ModeDesc} (hi : idx.toNat ≤ 7)
    (hname : m.name.length ≤ 16) :
    List.Forall₂ Writes ((setupMode idx m).take 4) ((setupMessages idx m).take 4) :=
  .cons (emit_textMessage_eq_textMsg hi hname _) <|
  .cons (emit_rangeMessage_ok hi _ m.rawMin m.rawMax) <|
  .cons (emit_rangeMessage_ok hi _ m.pctMin m.pctMax) <|
  .cons (emit_rangeMessage_ok hi _ m.siMin m.siMax) .nil

/-- The last three need a legal index and a presentable unit. -/
theorem writes_setupMode_drop_four {idx : Byte} {m : ModeDesc} (hi : idx.toNat ≤ 7)
    (hunit : m.unit.length ≤ 16) :
    List.Forall₂ Writes ((setupMode idx m).drop 4) ((setupMessages idx m).drop 4) :=
  .cons (emit_textMessage_eq_textMsg hi hunit _) <|
  .cons (exec_mapping_ok hi m.mapIn m.mapOut) <|
  .cons (exec_format_ok hi m.sampleCount m.typeCode m.figures m.decimals) .nil

/-- With a legal index and presentable texts, all seven operations write. -/
theorem writes_setupMode {idx : Byte} {m : ModeDesc} (hi : idx.toNat ≤ 7)
    (hname : m.name.length ≤ 16) (hunit : m.unit.length ≤ 16) :
    List.Forall₂ Writes (setupMode idx m) (setupMessages idx m) :=
  List.rel_append (writes_setupMode_take_four hi hname) (writes_setupMode_drop_four hi hunit)

/-- Settles O54: all seven operations write (`writes_setupMode`), so the sequence ends with their messages. -/
theorem setupModeWritesSevenMessages : Obligations.SetupModeWritesSevenMessages :=
  fun _ _ s hi hname hunit =>
    runSequence_of_writes (writes_setupMode hi hname hunit) (List.cons_ne_nil _ _) s

/-- Settles O55: `NAME` raises at once for an illegal index or an over-long name; for an over-long unit the first four
operations are passed (`writes_setupMode_take_four`) and `UNITS` raises. -/
theorem setupModeStopsAtTheFirstError : Obligations.SetupModeStopsAtTheFirstError := by
  intro idx m s
  obtain ⟨hbadIndex, htooLong, -⟩ := nameWritesPaddedText idx m.name s
  refine ⟨fun hi => ?_, fun hi hname => ?_, fun hi hname hunit => ?_⟩
  · exact runSequence_cons_of_failed (hbadIndex hi) (by decide) _
  · exact runSequence_cons_of_failed (htooLong hi hname) (by decide) _
  · have hne : (setupMessages idx m).take 4 ≠ [] := List.cons_ne_nil _ _
    obtain ⟨-, hunits, -⟩ :=
      unitsWritesPaddedText idx m.unit (writtenAll s ((setupMessages idx m).take 4))
    rw [← List.take_append_drop 4 (setupMode idx m),
      runSequence_append_of_writes (writes_setupMode_take_four hi hname),
      foldl_written_eq_writtenAll hne]
    exact runSequence_cons_of_failed (hunits hi hunit) (by decide) _

end Sys2Proof.Machine
end

section
/-! PROOFS. `HANDSHAKE` (spec/47_sequences.md R241): the two operands of its `MODES`, the identity messages, and the
messages of the modes under their indices. -/

namespace Sys2Proof.Machine

open Sys2Proof.Claims

/-! ### The operands of MODES -/

theorem modeCountOf_toNat (modes : List ModeDesc) :
    (modeCountOf modes).toNat = min modes.length 255 := by
  rw [modeCountOf, BitVec.toNat_ofNat]
  exact Nat.mod_eq_of_lt (Nat.lt_succ_of_le (Nat.min_le_right _ _))

/-- Modes after the eighth have no part in the flags. -/
theorem viewFlagsOf_take_eight (modes : List ModeDesc) :
    viewFlagsOf (modes.take 8) = viewFlagsOf modes := by
  rw [viewFlagsOf, List.take_take, Nat.min_self, viewFlagsOf]

/-- While they fit, the flags of the modes behind the first stand one bit higher, above its own. -/
theorem viewFlagsOf_cons {m : ModeDesc} {modes : List ModeDesc} (h : modes.length ≤ 7) :
    viewFlagsOf (m :: modes) = viewFlagsOf modes <<< 1 ||| if m.hasView then 1 else 0 := by
  rw [viewFlagsOf, viewFlagsOf, List.take_of_length_le (Nat.succ_le_succ h),
    List.take_of_length_le (h.trans (by decide)), List.foldr_cons]

/-- One flag as a byte has that flag at bit 0 and no other bit. -/
theorem getLsbD_flagByte (b : Bool) (i : Nat) :
    (if b then 1 else 0 : Byte).getLsbD i = (b && decide (i = 0)) := by
  cases b <;> simp [BitVec.getLsbD_one]

theorem getLsbD_viewFlagsOf_of_length_le {modes : List ModeDesc} (h : modes.length ≤ 8) (i : Nat) :
    (viewFlagsOf modes).getLsbD i = (modes[i]?.map ModeDesc.hasView).getD false := by
  induction modes generalizing i with
  | nil => simp [viewFlagsOf]
  | cons m modes ih =>
    have hle : modes.length ≤ 7 := Nat.le_of_succ_le_succ h
    rw [viewFlagsOf_cons hle, BitVec.getLsbD_or, BitVec.getLsbD_shiftLeft, getLsbD_flagByte]
    cases i with
    | zero => simp
    | succ i =>
      rw [Nat.add_sub_cancel, ih (hle.trans (by decide))]
      by_cases hi : i < modes.length
      · have hfits : i + 1 < 8 := by omega
        simp [hfits]
      · simp [hi]

/-- Bit `i` is the flag of mode `i` among the first eight, and 0 elsewhere. -/
theorem getLsbD_viewFlagsOf (modes : List ModeDesc) (i : Nat) :
    (viewFlagsOf modes).getLsbD i =
      (decide (i < 8) && (modes[i]?.map ModeDesc.hasView).getD false) := by
  have hlen : (modes.take 8).length ≤ 8 := List.length_take_le 8 modes
  rw [← viewFlagsOf_take_eight, getLsbD_viewFlagsOf_of_length_le hlen, List.getElem?_take]
  by_cases hi : i < 8 <;> simp [hi]

/-- Settles O58: the flags by `getLsbD_viewFlagsOf`, the count by `modeCountOf_toNat`. -/
theorem handshakePassesCountAndViewFlags : Obligations.HandshakePassesCountAndViewFlags := by
  refine fun d => ⟨modeCountOf d.modes, viewFlagsOf d.modes, rfl, getLsbD_viewFlagsOf d.modes, ?_⟩
  rw [modeCountOf_toNat, Nat.min_def]

/-! ### The identity messages -/

/-- Counting the positions whose element has a property is counting the elements that have it. -/
theorem length_filter_range_getElem? {α : Type} (p : α → Bool) (l : List α) :
    ((List.range l.length).filter fun i => (l[i]?.map p).getD false).length =
      (l.filter p).length := by
  simp only [← List.countP_eq_length_filter]
  induction l with
  | nil => rfl
  | cons x l ih =>
    rw [List.length_cons, List.range_succ_eq_map, List.countP_cons, List.countP_map, List.countP_cons,
      ← ih]
    rfl

/-- For at most 8 modes the two counts of `MODES` are those of the device's list. -/
theorem writes_modes {modes : List ModeDesc} (h : modes.length ≤ 8) :
    Writes (.modes (modeCountOf modes) (viewFlagsOf modes))
      (sealed [0x49, BitVec.ofInt 8 ((modes.length : Int) - 1),
        BitVec.ofInt 8 (((modes.filter ModeDesc.hasView).length : Int) - 1)]) := by
  intro s
  have hcount : (modeCountOf modes).toNat = modes.length := by
    rw [modeCountOf_toNat]
    omega
  have hexec := (modesWritesCountsLessOne (modeCountOf modes) (viewFlagsOf modes) s).2.1
    (hcount.trans_le h)
  simpa only [hcount, getLsbD_viewFlagsOf_of_length_le h, length_filter_range_getElem?] using hexec

/-- The first four operations of `HANDSHAKE` write the identity messages. -/
theorem writes_identity {d : DeviceDesc} (h : d.modes.length ≤ 8) :
    List.Forall₂ Writes ((handshake d).take 4) (identityMessages d) :=
  .cons (exec_type _) <| .cons (exec_speed _) <| .cons (writes_modes h) <|
    .cons (exec_version _ _) .nil

/-! ### The messages of the modes -/

/-- The modes from index `k` on write their messages, the last index being at most 7. -/
theorem writes_setupModesFrom {modes : List ModeDesc} {k : Nat} (hk : k + modes.length ≤ 8)
    (htext : ∀ m ∈ modes, m.name.length ≤ 16 ∧ m.unit.length ≤ 16) :
    List.Forall₂ Writes (setupModesFrom k modes)
      ((modes.zipIdx k).flatMap fun p => setupMessages (BitVec.ofNat 8 p.2) p.1) := by
  induction modes generalizing k with
  | nil => exact .nil
  | cons m modes ih =>
    rw [List.length_cons] at hk
    obtain ⟨⟨hname, hunit⟩, hrest⟩ := List.forall_mem_cons.mp htext
    have hmin : Nat.min k 255 = k := Nat.min_eq_left (by omega)
    have hidx : (BitVec.ofNat 8 k).toNat ≤ 7 := by
      rw [BitVec.toNat_ofNat]
      omega
    rw [setupModesFrom, List.zipIdx_cons, List.flatMap_cons, hmin]
    exact List.rel_append (writes_setupMode hidx hname hunit) (ih (by omega) hrest)

theorem writes_handshake {d : DeviceDesc} (hmodes : d.modes.length ≤ 8)
    (htext : ∀ m ∈ d.modes, m.name.length ≤ 16 ∧ m.unit.length ≤ 16) :
    List.Forall₂ Writes (handshake d) (handshakeMessages d) :=
  List.rel_append (writes_identity hmodes)
    (writes_setupModesFrom ((Nat.zero_add _).trans_le hmodes) htext)

/-- Four identity messages, and seven for each mode. -/
theorem handshakeMessages_length (d : DeviceDesc) :
    (handshakeMessages d).length = 4 + 7 * d.modes.length := by
  have hseven : ∀ p ∈ d.modes.zipIdx, (setupMessages (BitVec.ofNat 8 p.2) p.1).length = 7 :=
    fun _ _ => rfl
  rw [handshakeMessages, List.length_append, List.length_flatMap, List.map_congr_left hseven]
  simp [identityMessages, Nat.mul_comm]

/-- Settles O56: every operation writes (`writes_handshake`), and the messages are counted by
`handshakeMessages_length`. -/
theorem handshakeWritesFourPlusSevenPerMode : Obligations.HandshakeWritesFourPlusSevenPerMode :=
  fun d s hmodes htext =>
    ⟨runSequence_of_writes (writes_handshake hmodes htext) (List.cons_ne_nil _ _) s,
      handshakeMessages_length d⟩

/-- Settles O57: `TYPE` and `SPEED` write, and `MODES` raises, its count being above 8 (`modeCountOf_toNat`). -/
theorem handshakeOfNineModesStopsAfterTwoMessages :
    Obligations.HandshakeOfNineModesStopsAfterTwoMessages := by
  intro d s hmodes
  have hcount : 8 < (modeCountOf d.modes).toNat := by
    rw [modeCountOf_toNat]
    omega
  rw [handshake, List.cons_append, runSequence_cons_of_writes (exec_type _), List.cons_append,
    runSequence_cons_of_writes (exec_speed _)]
  exact runSequence_cons_of_failed (exec_modes_tooMany hcount _ _) (by decide) _

end Sys2Proof.Machine
end

section
/-! PROOFS. Reset, the invariant and the step (spec/70_reset_and_hazards.md, spec/10_state.md): the reset state is legal,
every step keeps a state legal, and a step runs what the command port's record encodes. -/

namespace Sys2Proof.Machine

open Sys2Proof.Claims

/-! ### The invariant -/

/-- A reset leaves a legal state: no message, no error, no record (R280, notes/assumptions/2.md). -/
theorem inv_resetWith (rest : List HostInput) : (State.resetWith rest).Inv :=
  ⟨by simp, by simp, by simp, by simp⟩

/-- An operation keeps a state legal, whether it answers, writes or raises. -/
theorem exec_inv {i : Instr} {s t : State} (hs : s.Inv) (h : exec i s = .next t) : t.Inv := by
  rcases exec_cases h with ⟨v, -, rfl⟩ | ⟨m, -, hm, rfl⟩ | ⟨e, rfl⟩
  · exact inv_respond hs v
  · exact inv_write hs hm
  · exact inv_raise hs e

/-- Settles O4: a step idles, resets (`inv_resetWith`) or runs an operation (`exec_inv`); the invariant does not read what
the host has yet to present. -/
theorem stepKeepsLegalState : Obligations.StepKeepsLegalState := by
  intro s t hs h
  rcases step_cases h with ⟨-, rfl⟩ | ⟨rest, -, rfl⟩ | ⟨c, rest, i, -, -, he⟩
  · exact hs
  · exact inv_resetWith rest
  · have htaken : State.Inv { s with inputs := rest } := hs
    exact exec_inv htaken he

/-- Settles O3: reset is `inv_resetWith` with nothing presented. -/
theorem resetStateIsLegal : Obligations.ResetStateIsLegal := inv_resetWith []

/-! ### Reset and the step -/

/-- Settles O1: the two fields of the reset state. -/
theorem resetLeavesSinkEmptyAndFaultZero : Obligations.ResetLeavesSinkEmptyAndFaultZero := ⟨rfl, rfl⟩

/-- Settles O2: the step answers `resetWith` (`step_reset`), whose fields are those of the statement. -/
theorem resetInputClearsSinkAndFault : Obligations.ResetInputClearsSinkAndFault := fun _ rest hin =>
  ⟨State.resetWith rest, step_reset hin, rfl, rfl, rfl, rfl⟩

/-- Settles O13: the rules `step_command` and `step_idle`. -/
theorem stepRunsTheDecodedOperation : Obligations.StepRunsTheDecodedOperation :=
  ⟨fun _ _ _ _ hin hd => step_command hin hd, fun _ hin => step_idle hin⟩

/-! ### Records and table words -/

/-- Settles O10: `decode_encode`, the decoder read at each ordinal that the encoder writes. -/
theorem decodeOfEncodeIsTheOperation : Obligations.DecodeOfEncodeIsTheOperation := decode_encode

/-- Settles O14: the decoder evaluated at the six words. -/
theorem tableWordsDecode : Obligations.TableWordsDecode := ⟨rfl, rfl, rfl, rfl, rfl, rfl⟩

end Sys2Proof.Machine
end

section
/-! PROOFS. Taking an error (spec/60_exceptions.md R255 to R262): an operation that reports one has raised, which keeps the
first code in `fault` and has no bearing on the operations after it. -/

namespace Sys2Proof.Machine

open Sys2Proof.Claims

/-- Settles O45: an operation's record is fixed before the state is known (`exec_respondsAndWrites`). -/
theorem everyOperationCompletes : Obligations.EveryOperationCompletes := by
  intro i s
  obtain ⟨r, ms, -, hw⟩ := exec_respondsAndWrites i
  obtain ⟨t, ht, hr, -⟩ := hw s
  exact ⟨t, r, ht, hr⟩

/-! ### What an error changes (R255, R257, R260) -/

/-- An operation that reports a nonzero status has raised an error, and the status is its code. -/
theorem exec_raise_of_status_ne_zero {i : Instr} {s t : State} {r : Response} (h : exec i s = .next t)
    (hr : t.response = some r) (hne : r.status ≠ 0) : ∃ e, t = s.raise e ∧ r.status = errorCode e := by
  rcases exec_cases h with ⟨v, -, rfl⟩ | ⟨m, -, -, rfl⟩ | ⟨e, rfl⟩
  · cases hr
    exact absurd rfl hne
  · cases hr
    exact absurd rfl hne
  · cases hr
    exact ⟨e, rfl, rfl⟩

/-- Settles O46: the operation has raised, which is the claims' state after that code (`raise_eq_failed`). -/
theorem raisingChangesOnlyStatusAndFault : Obligations.RaisingChangesOnlyStatusAndFault := by
  intro i s t r h hr hne
  obtain ⟨e, rfl, hcode⟩ := exec_raise_of_status_ne_zero h hr hne
  rw [hcode]
  exact ⟨raise_eq_failed s e, errorCode_le e⟩

/-- Settles O51: the error left the log as it was, and the next operation's record and messages do not depend on the
state (`exec_respondsAndWrites`). -/
theorem nextOperationIgnoresAnEarlierError : Obligations.NextOperationIgnoresAnEarlierError := by
  intro i j s t r h hr hne
  obtain ⟨e, rfl, -⟩ := exec_raise_of_status_ne_zero h hr hne
  obtain ⟨q, ms, -, hw⟩ := exec_respondsAndWrites j
  obtain ⟨u, hu, hur, hus⟩ := hw s
  obtain ⟨v, hv, hvr, hvs⟩ := hw (s.raise e)
  exact ⟨u, v, hu, hv, hur.trans hvr.symm, by rw [hus, hvs, raise_sink]⟩

/-! ### The first error is kept (R257) -/

/-- `t` holds the error that `s` has recorded, if it has one. -/
def KeepsFault (s t : State) : Prop := s.fault ≠ 0 → t.fault = s.fault

theorem KeepsFault.trans {s u t : State} (h₁ : KeepsFault s u) (h₂ : KeepsFault u t) :
    KeepsFault s t := fun hf => by
  have hu := h₁ hf
  exact (h₂ (hu ▸ hf)).trans hu

theorem exec_keepsFault {i : Instr} {s t : State} (h : exec i s = .next t) : KeepsFault s t := by
  rcases exec_cases h with ⟨v, -, rfl⟩ | ⟨m, -, -, rfl⟩ | ⟨e, rfl⟩
  · exact fun _ => rfl
  · exact fun _ => rfl
  · exact recordError_of_ne

theorem step_keepsFault {s t : State} (hn : noReset s.inputs = true) (h : step s = .next t) :
    KeepsFault s t := by
  rcases step_cases_of_noReset hn h with ⟨-, rfl⟩ | ⟨c, rest, i, -, -, he⟩
  · exact fun _ => rfl
  · have hk : KeepsFault { s with inputs := rest } t := exec_keepsFault he
    exact hk

theorem run_keepsFault {k : Nat} {s t : State} (hn : noReset s.inputs = true)
    (h : Sys2Proof.core.run k s = .next t) : KeepsFault s t :=
  run_induction_of_noReset (P := fun _ => KeepsFault) (fun _ _ => rfl)
    (fun _ _ _ _ hn hu hrest => (step_keepsFault hn hu).trans hrest) hn h

/-- Settles O7: an error is recorded as `failed` says (O46), a run without a reset keeps it (`run_keepsFault`), and a
reset clears it (`step_reset`). -/
theorem firstErrorIsKeptUntilReset : Obligations.FirstErrorIsKeptUntilReset := by
  refine ⟨fun i s t r h hr hne => ?_, fun k s t hn hf h => run_keepsFault hn h hf,
    fun s t rest hin h => ?_⟩
  · obtain ⟨ht, -⟩ := raisingChangesOnlyStatusAndFault i s t r h hr hne
    rw [ht]
    rfl
  · rw [step_reset hin] at h
    cases h
    rfl

end Sys2Proof.Machine
end

section
/-! PROOFS. Which error an operation reports (spec/60_exceptions.md R251 to R254, R258): the checks in their order, type,
index, number of modes, length class, and success when all are passed. -/

namespace Sys2Proof.Machine

open Sys2Proof.Claims

/-! ### The checks as conditions on the operands -/

/-- The type operand, if any, is a type (R251). -/
def TypeLegal (i : Instr) : Prop := typeOperand i ≠ some none

/-- The index operand, if any, is at most 7 (R252). -/
def IndexLegal (i : Instr) : Prop := ∀ x, indexOperand i = some x → x.toNat ≤ 7

/-- The operation is `MODES` with a mode count above 8 (R253). -/
def TooManyModes (i : Instr) : Prop := ∃ n f, i = .modes n f ∧ 8 < n.toNat

theorem not_indexLegal_iff {i : Instr} :
    ¬IndexLegal i ↔ ∃ x, indexOperand i = some x ∧ 7 < x.toNat := by
  simp [IndexLegal]

/-- A type operand that is legal names a type. -/
theorem exists_type_of_ne {t : TypeSel} (h : some t ≠ some none) : ∃ ty, t = some ty :=
  Option.ne_none_iff_exists'.mp fun hn => h (congrArg some hn)

/-! ### What the operation does at each outcome of the checks -/

/-- An operation whose index is the first operand to fail raises `FieldIndexOutOfRange` (R252, R258). -/
theorem exec_fieldIndexOutOfRange {i : Instr} {x : Byte} (ht : TypeLegal i)
    (hx : indexOperand i = some x) (h7 : 7 < x.toNat) (s : State) :
    exec i s = .next (s.raise .fieldIndexOutOfRange) := by
  cases i with
  | hdrpack cb exp idx =>
    obtain rfl : idx = x := Option.some.inj hx
    rw [exec_hdrpack, hdr_badIndex h7]
    rfl
  | frame _ _ idx _ _ | name idx _ | raw idx _ _ | pct idx _ _ | si idx _ _ | units idx _
  | mapping idx _ _ | format idx _ _ _ _ =>
    obtain rfl : idx = x := Option.some.inj hx
    exact emit_frame_badIndex h7 _ _ _ _ s
  | datas t idx _ =>
    obtain rfl : idx = x := Option.some.inj hx
    obtain ⟨ty, rfl⟩ := exists_type_of_ne ht
    exact emit_frame_badIndex h7 _ _ _ _ s
  | dataa t idx vs =>
    obtain rfl : idx = x := Option.some.inj hx
    obtain ⟨ty, rfl⟩ := exists_type_of_ne ht
    exact exec_dataa_badIndex h7 ty vs s
  | widthof _ | nenc _ _ | chkapp _ | lcscalar _ | lcarray _ _ | lctext _ | lcvalid _ _ | type _
  | speed _ | modes _ _ | version _ _ => cases hx

/-- An operation of one of the four cases of R254 whose type and index pass raises `LengthClassInvalid`. -/
theorem exec_lengthClassInvalid {i : Instr} (ht : TypeLegal i) (hi : IndexLegal i)
    (hb : breaksLengthClass i) (s : State) : exec i s = .next (s.raise .lengthClassInvalid) := by
  cases i with
  | hdrpack cb exp idx =>
    rw [exec_hdrpack, hdr_badExp (hi idx rfl) hb]
    rfl
  | frame _ exp idx _ data =>
    have hor : 4 < exp.toNat ∨ data.length ≠ 2 ^ exp.toNat := hb
    exact emit_frame_badLength (hi idx rfl) (by omega) _ _ s
  | name idx _ | units idx _ => exact emit_textMessage_tooLong (hi idx rfl) hb _ s
  | lcarray t n =>
    obtain ⟨ty, rfl⟩ := exists_type_of_ne ht
    obtain rfl : n = 0 := hb
    exact exec_lcarray_zero ty s
  | dataa t idx vs =>
    obtain ⟨ty, rfl⟩ := exists_type_of_ne ht
    obtain rfl : vs = [] := hb
    exact exec_dataa_nil (hi idx rfl) ty s
  | widthof _ | nenc _ _ | chkapp _ | lcscalar _ | lctext _ | lcvalid _ _ | type _ | speed _
  | modes _ _ | version _ _ | raw _ _ _ | pct _ _ _ | si _ _ _ | mapping _ _ _
  | format _ _ _ _ _ | datas _ _ _ => exact absurd hb id

/-- The outcome goes on with status 0 on the response port. -/
def Succeeds (o : StepOutcome) : Prop := ∃ t a, o = .next t ∧ t.response = some ⟨0, a⟩

theorem succeeds_of_answered {o : StepOutcome} {s : State} {a : Result}
    (h : o = .next (answered s a)) : Succeeds o := ⟨_, some a, h, rfl⟩

theorem succeeds_of_written {o : StepOutcome} {s : State} {m : Bytes}
    (h : o = .next (written s m)) : Succeeds o := ⟨_, none, h, rfl⟩

theorem succeeds_textMessage {idx : Byte} {text : Bytes} (hi : idx.toNat ≤ 7)
    (hlen : ¬16 < text.length) (sub : Byte) (s : State) :
    Succeeds (emit (textMessage sub idx text) s) := by
  obtain ⟨k, -, hw⟩ := emit_textMessage_ok hi (Nat.le_of_not_lt hlen) sub s
  exact succeeds_of_written hw

/-- An operation that passes all four checks succeeds. -/
theorem exec_succeeds {i : Instr} (ht : TypeLegal i) (hi : IndexLegal i) (hm : ¬TooManyModes i)
    (hb : ¬breaksLengthClass i) (s : State) : Succeeds (exec i s) := by
  cases i with
  | widthof t =>
    obtain ⟨ty, rfl⟩ := exists_type_of_ne ht
    exact succeeds_of_answered (exec_widthof ty s)
  | nenc t v =>
    obtain ⟨ty, rfl⟩ := exists_type_of_ne ht
    exact succeeds_of_answered (exec_nenc ty v s)
  | chkapp b => exact succeeds_of_answered (exec_chkapp b s)
  | hdrpack _ _ idx =>
    exact succeeds_of_answered (exec_hdrpack_ok (hi idx rfl) (Nat.le_of_not_lt hb) s)
  | lcscalar t =>
    obtain ⟨ty, rfl⟩ := exists_type_of_ne ht
    exact succeeds_of_answered (exec_lcscalar ty s)
  | lcarray t n =>
    obtain ⟨ty, rfl⟩ := exists_type_of_ne ht
    exact succeeds_of_answered (exec_lcarray ty hb s)
  | lctext n => exact succeeds_of_answered (exec_lctext n s)
  | lcvalid exp n => exact succeeds_of_answered (exec_lcvalid exp n s)
  | frame _ exp idx _ data =>
    have hor : ¬(4 < exp.toNat ∨ data.length ≠ 2 ^ exp.toNat) := hb
    exact succeeds_of_written (exec_frame_ok (hi idx rfl) (by omega) (by omega) s)
  | type x => exact succeeds_of_written (exec_type x s)
  | speed rate => exact succeeds_of_written (exec_speed rate s)
  | modes n f =>
    have hle : n.toNat ≤ 8 := Nat.le_of_not_lt fun hlt => hm ⟨n, f, rfl, hlt⟩
    exact succeeds_of_written (exec_modes_ok hle f s)
  | version hw sw => exact succeeds_of_written (exec_version hw sw s)
  | name idx _ | units idx _ => exact succeeds_textMessage (hi idx rfl) hb _ s
  | raw idx _ _ | pct idx _ _ | si idx _ _ =>
    exact succeeds_of_written (emit_rangeMessage_ok (hi idx rfl) _ _ _ s)
  | mapping idx _ _ => exact succeeds_of_written (exec_mapping_ok (hi idx rfl) _ _ s)
  | format idx _ _ _ _ => exact succeeds_of_written (exec_format_ok (hi idx rfl) _ _ _ _ s)
  | datas t idx v =>
    obtain ⟨ty, rfl⟩ := exists_type_of_ne ht
    exact succeeds_of_written (exec_datas_ok (hi idx rfl) ty v s)
  | dataa t idx vs =>
    obtain ⟨ty, rfl⟩ := exists_type_of_ne ht
    exact succeeds_of_written (exec_dataa_ok (hi idx rfl) hb ty s)

/-! ### The reported status tells the outcome of the checks -/

/-- `MODES` has neither a type nor an index nor a length class to check. -/
theorem TooManyModes.other_checks {i : Instr} (h : TooManyModes i) :
    TypeLegal i ∧ IndexLegal i ∧ ¬breaksLengthClass i := by
  obtain ⟨n, f, rfl, -⟩ := h
  exact ⟨nofun, nofun, id⟩

/-- Status `c` is what the first failing check reports, or 0 when none fails. -/
inductive StatusOfChecks (i : Instr) : BitVec 3 → Prop
  | invalidType (ht : ¬TypeLegal i) : StatusOfChecks i 1
  | fieldIndexOutOfRange (ht : TypeLegal i) (hi : ¬IndexLegal i) : StatusOfChecks i 2
  | tooManyModes (hm : TooManyModes i) : StatusOfChecks i 3
  | lengthClassInvalid (ht : TypeLegal i) (hi : IndexLegal i) (hb : breaksLengthClass i) :
    StatusOfChecks i 4
  | ok (ht : TypeLegal i) (hi : IndexLegal i) (hm : ¬TooManyModes i) (hb : ¬breaksLengthClass i) :
    StatusOfChecks i 0

theorem status_of_raise {o : StepOutcome} {s t : State} {r : Response} {e : FramerError}
    (hraise : o = .next (s.raise e)) (h : o = .next t) (hr : t.response = some r) :
    r.status = errorCode e := by
  cases hraise.symm.trans h
  cases hr
  rfl

theorem exec_statusOfChecks {i : Instr} {s t : State} {r : Response} (h : exec i s = .next t)
    (hr : t.response = some r) : StatusOfChecks i r.status := by
  by_cases ht : TypeLegal i
  case neg =>
    rw [status_of_raise (exec_invalidType (not_not.mp ht) s) h hr]
    exact .invalidType ht
  by_cases hi : IndexLegal i
  case neg =>
    obtain ⟨x, hx, h7⟩ := not_indexLegal_iff.mp hi
    rw [status_of_raise (exec_fieldIndexOutOfRange ht hx h7 s) h hr]
    exact .fieldIndexOutOfRange ht hi
  by_cases hm : TooManyModes i
  case pos =>
    obtain ⟨n, f, rfl, h8⟩ := hm
    rw [status_of_raise (e := .tooManyModes) (exec_modes_tooMany h8 f s) h hr]
    exact .tooManyModes ⟨n, f, rfl, h8⟩
  by_cases hb : breaksLengthClass i
  case pos =>
    rw [status_of_raise (exec_lengthClassInvalid ht hi hb s) h hr]
    exact .lengthClassInvalid ht hi hb
  obtain ⟨u, a, hu, hur⟩ := exec_succeeds ht hi hm hb s
  cases hu.symm.trans h
  cases hur.symm.trans hr
  exact .ok ht hi hm hb

/-- The five outcomes of the checks exclude each other, so a status says which check failed. -/
theorem StatusOfChecks.iffs {i : Instr} {c : BitVec 3} (h : StatusOfChecks i c) :
    (c = 1 ↔ ¬TypeLegal i) ∧ (c = 2 ↔ TypeLegal i ∧ ¬IndexLegal i) ∧ (c = 3 ↔ TooManyModes i) ∧
      (c = 4 ↔ breaksLengthClass i ∧ TypeLegal i ∧ IndexLegal i) := by
  cases h with
  | invalidType ht =>
    have hm : ¬TooManyModes i := fun hm => ht hm.other_checks.1
    simp [ht, hm]
  | fieldIndexOutOfRange ht hi =>
    have hm : ¬TooManyModes i := fun hm => hi hm.other_checks.2.1
    simp [ht, hi, hm]
  | tooManyModes hm => simp [hm, hm.other_checks]
  | lengthClassInvalid ht hi hb =>
    have hm : ¬TooManyModes i := fun hm => hm.other_checks.2.2 hb
    simp [ht, hi, hb, hm]
  | ok ht hi hm hb => simp [ht, hi, hm, hb]

/-- Settles O49: the status is that of the first failing check (`exec_statusOfChecks`), which it identifies. -/
theorem firstThreeErrorsAndTheirConditions : Obligations.FirstThreeErrorsAndTheirConditions := by
  intro i s t r h hr
  obtain ⟨h1, h2, h3, -⟩ := (exec_statusOfChecks h hr).iffs
  exact ⟨h1.trans not_not, by rw [h2, not_indexLegal_iff]; rfl, h3⟩

/-- Settles O50: as O49, at the last check. -/
theorem lengthClassInvalidAndItsConditions : Obligations.LengthClassInvalidAndItsConditions := by
  intro i s t r h hr
  obtain ⟨-, -, -, h4⟩ := (exec_statusOfChecks h hr).iffs
  exact h4

end Sys2Proof.Machine
end

section
/-! PROOFS. The operation map (spec/30_encoding.md R68, R71): the header and the sub-id of each message but that of
`FRAME`. -/

namespace Sys2Proof.Machine

open Sys2Proof.Claims

/-- The message begins with a header and, where its row has one, a sub-id of the operation's row in R68. -/
def InHeaderRow (i : Instr) (m : Bytes) : Prop := ∃ h x rest, m = h :: x :: rest ∧ headerRow i h x

/-! ### The values of the headers (R62) -/

/-- The info base has its low six bits free, so the OR of R62 is a sum. -/
theorem infoHeader_toNat : ∀ idx : Byte, idx.toNat ≤ 7 → ∀ exp ≤ 4,
    (headerByte config.cbInfo exp idx).toNat = 0x80 + 8 * exp + idx.toNat := by decide

/-- So has the data base. -/
theorem dataHeader_toNat : ∀ idx : Byte, idx.toNat ≤ 7 → ∀ exp ≤ 4,
    (headerByte config.cbData exp idx).toNat = 0xC0 + 8 * exp + idx.toNat := by decide

/-- The format base has not: the index loses its bit 0 (R199). -/
theorem formatHeader_mem : ∀ idx : Byte, idx.toNat ≤ 7 →
    headerByte config.cbFormat 2 idx ∈ ([0x51, 0x53, 0x55, 0x57] : Bytes) := by decide

/-! ### The rows -/

/-- A format M2 message begins with its header and its sub-id. -/
theorem inHeaderRow_subFrame {i : Instr} {cb idx sub : Byte} {exp : Nat} {data m : Bytes}
    (h : (frame cb exp idx (some sub) data).toOption = some m)
    (hrow : idx.toNat ≤ 7 → exp ≤ 4 → headerRow i (headerByte cb exp idx) sub) : InHeaderRow i m := by
  obtain ⟨hi, he, -, rfl⟩ := frame_toOption_eq_some h
  exact ⟨_, sub, _, rfl, hrow hi he⟩

/-- A message of the info base has one of the eight headers of its length class. -/
theorem inHeaderRow_infoFrame {i : Instr} {idx sub : Byte} {exp : Nat} {data m : Bytes}
    (h : (frame config.cbInfo exp idx (some sub) data).toOption = some m)
    (hrow : exp ≤ 4 → ∀ b : Byte, 0x80 + 8 * exp ≤ b.toNat → b.toNat ≤ 0x87 + 8 * exp →
      headerRow i b sub) : InHeaderRow i m :=
  inHeaderRow_subFrame h fun hi he => by
    have hval := infoHeader_toNat idx hi exp he
    exact hrow he _ (by omega) (by omega)

/-- A data message has one of the eight headers of its length class; its second byte is the first data byte. -/
theorem inHeaderRow_dataFrame {i : Instr} {idx : Byte} {exp : Nat} {data m : Bytes}
    (h : (frame config.cbData exp idx none data).toOption = some m)
    (hrow : exp ≤ 4 → ∀ b x : Byte, 0xC0 + 8 * exp ≤ b.toNat → b.toNat ≤ 0xC7 + 8 * exp →
      headerRow i b x) : InHeaderRow i m := by
  obtain ⟨hi, he, hl, rfl⟩ := frame_toOption_eq_some h
  have hval := dataHeader_toNat idx hi exp he
  obtain ⟨x, rest, rfl⟩ := List.exists_cons_of_length_pos (hl ▸ Nat.two_pow_pos exp)
  exact ⟨_, x, _, rfl, hrow he _ x (by omega) (by omega)⟩

/-- The message of every operation but `FRAME`, whose command base is free, is in the operation's row. -/
theorem inHeaderRow_messageOf {i : Instr} {m : Bytes} (hi : ordinal i ≠ 8)
    (h : messageOf i = some m) : InHeaderRow i m := by
  cases i with
  | frame _ _ _ _ _ => exact absurd rfl hi
  | type _ | speed _ | version _ _ =>
    cases h
    exact ⟨_, _, _, rfl, rfl⟩
  | modes n _ =>
    simp only [messageOf] at h
    split at h
    · cases h
    · cases h
      exact ⟨_, _, _, rfl, rfl⟩
  | name _ _ | units _ _ =>
    exact inHeaderRow_infoFrame h fun he b hlo hhi => ⟨by omega, by omega, rfl⟩
  | raw _ _ _ | pct _ _ _ | si _ _ _ | mapping _ _ _ =>
    exact inHeaderRow_infoFrame h fun _ b hlo hhi => ⟨hlo, hhi, rfl⟩
  | format idx _ _ _ _ => exact inHeaderRow_subFrame h fun hi _ => ⟨formatHeader_mem idx hi, rfl⟩
  | datas t _ _ =>
    rcases t with - | ty
    · cases h
    · have hexp := flog2_widthTable_le ty
      exact inHeaderRow_dataFrame h fun _ b x hlo hhi => ⟨by omega, by omega⟩
  | dataa t _ _ =>
    rcases t with - | ty
    · cases h
    · simp only [messageOf] at h
      split at h
      · cases h
      · exact inHeaderRow_dataFrame h fun he b x hlo hhi => ⟨by omega, by omega⟩
  | widthof _ | nenc _ _ | chkapp _ | hdrpack _ _ _ | lcscalar _ | lcarray _ _ | lctext _
  | lcvalid _ _ => cases h

/-- Settles O53: the message appended is `messageOf i` (`exec_sink`), which is in the operation's row. -/
theorem headersFollowTheOperationMap : Obligations.HeadersFollowTheOperationMap := by
  intro i s t m hi h hm
  have hlist : [m] = (messageOf i).toList := List.append_cancel_left (hm.symm.trans (exec_sink h))
  exact inHeaderRow_messageOf hi (Option.toList_eq_singleton_iff.mp hlist.symm)

end Sys2Proof.Machine
end
